-- ==== Sys2Proof/Word.lean ====
section
/-! DEFINITION. The two kinds of word the spec uses: the byte (rule R7: "a *byte* is a number 0 to 255") and
the bit-string (rule R7: "a finite sequence of bits written left to right in the order they enter the stream"). -/

namespace Sys2Proof

/-- A byte: a symbol of the alphabet (R5: SYM_W = 8), a cell of INBUF or OUTBUF, a command word. -/
abbrev Byte := BitVec 8

/-- A bit-string, leftmost bit (`B[0]`, the first to enter the stream) at the head; `true` is the bit 1. -/
abbrev Bits := List Bool

end Sys2Proof
end

