-- ==== Sys2Proof/Config.lean ====
section
/-! DEFINITION. What an implementation fixes (rule R5) and the values the spec leaves unspecified
(93_implementation_defined.md U1, U2, U3, U10). A free value is an opaque constant: no proof can see it. -/

namespace Sys2Proof

/-- The two open parameters of rule R5: the capacities of INBUF and OUTBUF in bytes, any natural numbers.
They are fixed for one block; `State` carries them (assumption 1). -/
structure Capacities where
  /-- MAX_IN, capacity of the input buffer. -/
  maxIn : Nat
  /-- MAX_OUT, capacity of the output buffer. -/
  maxOut : Nat
deriving DecidableEq, Repr

/-- The smallest `w` with `2^w > m` (rule R5, the rows LEN_W and CNT_W). -/
def bitWidth (m : Nat) : Nat := if m = 0 then 0 else Nat.log2 m + 1

/-- LEN_W, the width of IN_LEN and OUT_LEN (R5). -/
def Capacities.lenW (c : Capacities) : Nat := bitWidth (max c.maxIn c.maxOut)

/-- CNT_W, the width of a frequency counter and of a node's frequency (R5: "the spec takes the smallest"). -/
def Capacities.cntW (c : Capacities) : Nat := bitWidth c.maxIn

/-- MAX_IN of the block whose reset state is `State.reset`. OPEN in the spec (R5, D4): no value is chosen. -/
opaque Config.maxIn : Nat

/-- MAX_OUT of the block whose reset state is `State.reset`. OPEN in the spec (R5, D4): no value is chosen. -/
opaque Config.maxOut : Nat

/-- U1: the value of an INBUF byte the host has not written since the last reset, by the number of the draw
(`State.inDraw`) and the byte's index (assumption 4). -/
opaque Config.freeIn : Nat → Nat → Byte

/-- U2: the value of an OUTBUF byte outside the delivered result, by the number of the draw
(`State.outDraw`) and the byte's index (assumption 5). -/
opaque Config.freeOut : Nat → Nat → Byte

/-- U3: the word held by a NODE slot at or above NNODES, by the number of the draw (`State.nodeDraw`) and the
slot's index; a read takes its low `27 + CNT_W` bits (assumption 6). -/
opaque Config.freeNode : Nat → Nat → Nat

end Sys2Proof
end

