-- ==== Sys2Proof/Syntax.lean ====
section
/-! DEFINITION. What the host can say to the block: the eight commands (rule R45, one constructor for each row of
spec/opcode_table.json), the transactions that carry them (rules R31, R33), the events that reach the block
(transactions and reset, rule R140), and the lines of a host script (rule R59). -/

namespace Sys2Proof

/-- The eight commands of rule R45. "No command has an operand field". -/
inductive Instr where
  /-- CLEAR, command word 0x01 (R109). -/
  | clear
  /-- COUNT, command word 0x02 (R61). -/
  | count
  /-- BUILD, command word 0x03 (R66). -/
  | build
  /-- ASSIGN, command word 0x04 (R73). -/
  | assign
  /-- PACK, command word 0x05 (R81). -/
  | pack
  /-- UNPACK, command word 0x06 (R91). -/
  | unpack
  /-- ENCODE, command word 0x07 (R105). -/
  | encode
  /-- DECODE, command word 0x08 (R100). -/
  | decode
deriving DecidableEq, Repr

/-- A host address, the pair (space, index) of rule R31. -/
structure Addr where
  space : Nat
  index : Nat
deriving DecidableEq, Repr

/-- A host transaction: it moves exactly one element (R33). The value written is the element as a number. -/
inductive Txn where
  | read (a : Addr)
  | write (a : Addr) (value : Nat)
deriving DecidableEq, Repr

/-- What reaches the block from outside, one at a time in one total order (R39): a host transaction, or a reset,
which the platform applies "outside the stream of host transactions" (R140). -/
inductive Event where
  | txn (t : Txn)
  | reset
deriving DecidableEq, Repr

/-- A line of a host script (R59): a command, or one of the three pseudo-instructions. -/
inductive ScriptLine where
  /-- A command line: one write of its word to CMD. -/
  | command (i : Instr)
  /-- LOAD: write the bytes to `INBUF[0]`, `INBUF[1]`, … and their number to IN_LEN. -/
  | load (bytes : List Byte)
  /-- XFER: read OUT_LEN and `OUTBUF[0..OUT_LEN)`, then LOAD those bytes. -/
  | xfer
  /-- READ: read STATUS, OUT_LEN and `OUTBUF[0..OUT_LEN)`. -/
  | read
deriving DecidableEq, Repr

end Sys2Proof
end

