-- ==== Sys2Proof/WellFormed.lean ====
section
/-! DEFINITION. Well-formed commands, transactions and script lines. A command has no operand (R48), so every
`Instr` is well-formed; what can be ill-formed is what carries it: an address outside its space (R37), a value too
wide for its element (R33), a LOAD longer than the input buffer (R59). -/

namespace Sys2Proof

/-- Every command is well-formed: "No command word carries an immediate, a register number, an address or a mode"
(R48). -/
def Instr.wf (i : Instr) : Bool :=
  match i with
  | .clear => true
  | .count => true
  | .build => true
  | .assign => true
  | .pack => true
  | .unpack => true
  | .encode => true
  | .decode => true

/-- The number of entries of a space (the table of R31); a space number above 5 has none. -/
def spaceEntries (c : Capacities) (space : Nat) : Nat :=
  match space with
  | 0 => 5
  | 1 => c.maxIn
  | 2 => c.maxOut
  | 3 => 256
  | 4 => 511
  | 5 => 256
  | _ => 0

/-- The address names an element of the block (R31, R37). -/
def Addr.wf (c : Capacities) (a : Addr) : Bool := decide (a.index < spaceEntries c a.space)

/-- The value fits the element it is written to, for the two 8-bit elements a host write changes or starts
something with: CMD (R14) and a byte of INBUF (R25). -/
def valueFits (a : Addr) (v : Nat) : Bool :=
  if a.space = 1 ∨ (a.space = 0 ∧ a.index = 0) then decide (v < 256) else true

/-- A transaction the spec gives a meaning to (R33, R37). -/
def Txn.wf (c : Capacities) (t : Txn) : Bool :=
  match t with
  | .read a => a.wf c
  | .write a v => a.wf c && valueFits a v

/-- A reset may always arrive (U11); a transaction must be well-formed. -/
def Event.wf (c : Capacities) (e : Event) : Bool :=
  match e with
  | .txn t => t.wf c
  | .reset => true

/-- R59: LOAD "is legal only for at most MAX_IN bytes". XFER's condition is on the state
(`OUT_LEN <= MAX_IN`), not on the line. -/
def ScriptLine.wf (c : Capacities) (l : ScriptLine) : Bool :=
  match l with
  | .command i => i.wf
  | .load bytes => decide (bytes.length ≤ c.maxIn)
  | .xfer => true
  | .read => true

end Sys2Proof
end

