-- ==== Sys2Proof/Decode.lean ====
section
/-! DEFINITION. Decoding a command word (rules R45, R47, R49), total on every byte, and the encoder. -/

namespace Sys2Proof

/-- Why a command word encodes no command (R47, R49). Both are reported as IllegalCommand. -/
inductive DecodeError where
  /-- `w[7:4] != 0`: the field RSV must be 0000. -/
  | reservedBitsSet (rsv : BitVec 4)
  /-- RSV is 0 and OPC is 0 or 9 to 15. -/
  | opcodeUnassigned (opc : BitVec 4)
deriving DecidableEq, Repr

/-- The field OPC, bits 3 to 0 of a command word (R47). -/
def opcField (w : Byte) : BitVec 4 := w.extractLsb' 0 4

/-- The field RSV, bits 7 to 4 of a command word (R47). -/
def rsvField (w : Byte) : BitVec 4 := w.extractLsb' 4 4

/-- The command of an opcode (the column OPC of R45). -/
def instrOfOpc (opc : BitVec 4) : Option Instr :=
  match opc.toNat with
  | 1 => some .clear
  | 2 => some .count
  | 3 => some .build
  | 4 => some .assign
  | 5 => some .pack
  | 6 => some .unpack
  | 7 => some .encode
  | 8 => some .decode
  | _ => none

/-- Decoding a written word, as R47 says it: "if `w[7:4] != 0` the word is illegal; otherwise if `w[3:0]` is 1 to 8
the word is the command of that OPC in rule R45; otherwise (OPC 0 or 9 to 15) the word is illegal". -/
def decode (w : Byte) : Except DecodeError Instr :=
  if rsvField w ≠ 0#4 then .error (.reservedBitsSet (rsvField w))
  else
    match instrOfOpc (opcField w) with
    | some i => .ok i
    | none => .error (.opcodeUnassigned (opcField w))

/-- The command word of each command (the column "command word" of R45). -/
def encode (i : Instr) : Byte :=
  match i with
  | .clear => 0x01#8
  | .count => 0x02#8
  | .build => 0x03#8
  | .assign => 0x04#8
  | .pack => 0x05#8
  | .unpack => 0x06#8
  | .encode => 0x07#8
  | .decode => 0x08#8

/-- The byte a table word of `nbits` bits is stored as: a command is one 8-bit word and nothing follows it. -/
def tableByte (nbits w : Nat) : Byte := BitVec.ofNat 8 (w % 2 ^ nbits)

/-- The command the decoder reads from a word numbered as spec/opcode_table.json numbers it. -/
def decodeTableWord (nbits w : Nat) : Option Instr :=
  match decode (tableByte nbits w) with
  | .ok i => some i
  | .error _ => none

theorem decode_clear : decode 0b00000001#8 = .ok .clear := by decide
theorem decode_count : decode 0b00000010#8 = .ok .count := by decide
theorem decode_build : decode 0b00000011#8 = .ok .build := by decide
theorem decode_assign : decode 0b00000100#8 = .ok .assign := by decide
theorem decode_pack : decode 0b00000101#8 = .ok .pack := by decide
theorem decode_unpack : decode 0b00000110#8 = .ok .unpack := by decide
theorem decode_encode_command : decode 0b00000111#8 = .ok .encode := by decide
theorem decode_decode_command : decode 0b00001000#8 = .ok .decode := by decide

end Sys2Proof
end

