-- ==== Sys2Proof/Machine/State.lean ====
section
/-! DEFINITION. The state of the block (rule R10: "the following list and nothing else"), its reset value (R27), and
the reasons a step can stop. Beside the spec's own state stand the model's own fields: the capacities (assumption 1),
the events not yet taken and the last response (assumptions 2 and 3), and the counters of the free values
(assumption 7). -/

namespace Sys2Proof.Machine

/-- An entry of the node table NODE (R20). -/
inductive Node where
  /-- `Leaf(sym, freq)`: "holds exactly one byte value". -/
  | leaf (sym : Byte) (freq : Nat)
  /-- `Internal(left, right, freq)`: the children are indices of other entries. -/
  | internal (left right : Nat) (freq : Nat)
deriving DecidableEq, Repr

/-- A buffer: the bytes stored in it, by index, indices strictly rising (`Memory.wf`). An index that is not listed
holds no byte the spec specifies. -/
abbrev Memory := List Host.Cell

/-- The code table CODE (R22): for each byte value, `none` is the spec's `absent`. -/
abbrev CodeTable := Vector (Option Bits) 256

/-- The reverse code table RCODE (R23), "a finite partial function from non-empty bit-strings to byte values", as
(bit-string, byte) pairs; the first pair of a bit-string is the one that counts. -/
abbrev ReverseTable := List (Bits × Byte)

/-- The frequency table FREQ (R19). -/
abbrev FreqTable := Vector Nat 256

/-- FREQ with every count 0 (R19: "the empty mapping is the table of 256 zeros"). -/
@[irreducible] def FreqTable.zero : FreqTable := Vector.replicate 256 0

/-- CODE with every entry absent (R22). -/
@[irreducible] def CodeTable.empty : CodeTable := Vector.replicate 256 none

/-- The five outcomes of a command (the table of R120). -/
inductive Ecode where
  | ok
  | malformedStream
  | illegalCommand
  | missingCode
  | outputOverflow
deriving DecidableEq, Repr

/-- What the host receives when a transaction ends. -/
inductive Response where
  /-- A write to CMD: "the transaction's response carries the new value of STATUS.ECODE" (R14). -/
  | outcome (ecode : BitVec 4)
  /-- A read: the whole element (R33). -/
  | data (value : Nat)
  /-- Any other write. -/
  | written
deriving DecidableEq, Repr

/-- The state of the block. -/
structure State where
  /-- MAX_IN and MAX_OUT (R5). No step changes them (R29). -/
  caps : Capacities
  /-- STATUS, REG index 1 (R15); bits 3:0 are ECODE. -/
  status : BitVec 8
  /-- IN_LEN, REG index 2 (R16). -/
  inLen : Nat
  /-- OUT_LEN, REG index 3 (R17). -/
  outLen : Nat
  /-- NNODES, REG index 4 (R18). -/
  nnodes : Nat
  /-- FREQ, space 3 (R19). -/
  freq : FreqTable
  /-- NODE, space 4 (R20): the entries below NNODES; a slot not listed is unspecified (U3). -/
  node : List Node
  /-- CODE, space 5 (R22). -/
  code : CodeTable
  /-- RCODE (R23). -/
  rcode : ReverseTable
  /-- INBUF, space 1 (R25): the bytes the host has written since the last reset. -/
  inbuf : Memory
  /-- OUTBUF, space 2 (R25): the bytes of the delivered result. -/
  outbuf : Memory
  /-- Model's own: the events issued to the block and not yet taken, first to come first (R39). -/
  pending : List Event
  /-- Model's own: the response to the last transaction, if there was one since the last reset. -/
  response : Option Response
  /-- Model's own: the number of the draw that unwritten INBUF bytes read from (U1). -/
  inDraw : Nat
  /-- Model's own: the number of the draw that undelivered OUTBUF bytes read from (U2). -/
  outDraw : Nat
  /-- Model's own: the number of the draw that NODE slots at and above NNODES read from (U3). -/
  nodeDraw : Nat
deriving DecidableEq, Repr

/-- The reasons a step stops with a fault. There is none: every error of the spec is an outcome in ECODE after which
the block goes on (R126, R128), so this type is empty. Nothing raises it (safe). -/
inductive Fault where
deriving DecidableEq, Repr

/-- The reasons a step is refused. -/
inductive Refusal where
  /-- Raised by an arm of `exec` whose command has no meaning yet: none is left (safe). -/
  | notModelled (mnemonic : String)
  /-- Raised by a host transaction whose (space, index) names no element: R37 "this spec assigns it no meaning …
  a model refuses it" (safe, assumption 8). -/
  | hostAccessOutOfRange (space index : Nat)
  /-- Raised by a host write of a number above 255 to CMD or to a byte of INBUF: no transaction moves more than its
  8-bit element, R33 (safe, assumption 9). -/
  | hostValueTooWide (space index value : Nat)
deriving DecidableEq, Repr

/-- The reset state of a block with the given capacities (R27): "STATUS = 0x00 (ECODE = 0); IN_LEN = 0; OUT_LEN = 0;
NNODES = 0 (null tree); `FREQ[s] = 0` for all s; `CODE[s] = absent` for all s; RCODE empty; every slot of NODE
unspecified; every byte of INBUF and OUTBUF unspecified". The model's own fields are DESIGN CHOICE (assumptions 2, 3,
7). -/
def State.resetWith (caps : Capacities) : State where
  caps := caps
  status := 0#8
  inLen := 0
  outLen := 0
  nnodes := 0
  freq := FreqTable.zero
  node := []
  code := CodeTable.empty
  rcode := []
  inbuf := []
  outbuf := []
  pending := []
  response := none
  inDraw := 0
  outDraw := 0
  nodeDraw := 0

/-- The machine right after reset, of the capacities the spec leaves open. -/
def State.reset : State := State.resetWith ⟨Config.maxIn, Config.maxOut⟩

end Sys2Proof.Machine
end

