-- ==== Sys2Proof/Machine/Flags.lean ====
section
/-! DEFINITION. The one status flag of the block: the field ECODE of STATUS (rules R13, R15, R120). -/

namespace Sys2Proof.Machine

/-- The 4-bit code of an outcome (the column ECODE of R120). -/
def Ecode.code (e : Ecode) : BitVec 4 :=
  match e with
  | .ok => 0#4
  | .malformedStream => 1#4
  | .illegalCommand => 2#4
  | .missingCode => 3#4
  | .outputOverflow => 4#4

/-- STATUS as a command leaves it: STATUS[3:0] is ECODE, STATUS[7:4] reads as 0 (R15). -/
def statusWord (e : Ecode) : BitVec 8 := 0#4 ++ e.code

/-- The field ECODE, STATUS[3:0] (R15). -/
def State.ecode (s : State) : BitVec 4 := s.status.extractLsb' 0 4

/-- ECODE <- the code of `e`: "ECODE is overwritten by every command" (R15). -/
def State.setEcode (e : Ecode) (s : State) : State := { s with status := statusWord e }

end Sys2Proof.Machine
end

