-- ==== Sys2Proof/Machine/Ops.lean ====
section
/-! DEFINITION. The shared operations over the buffers, and what every command ends with: delivering a result
(rule R28), or taking an error (rule R126); beside them the two error-like events that are not errors of a command that
ran: an illegal command word (rule R122) and a reset (rules R140, R142). -/

namespace Sys2Proof.Machine

/-! ### Buffers -/

/-- The canonical form of a buffer: indices strictly rising. An unlisted index reads as no stored byte, so no entry
can equal it. -/
def Memory.wf (m : Memory) : Bool := decide (m.Pairwise fun x y => x.1 < y.1)

/-- The byte stored at an index, if one is. -/
def Memory.read? (m : Memory) (a : Nat) : Option Byte :=
  match m with
  | [] => none
  | (b, v) :: rest => if a = b then some v else Memory.read? rest a

/-- Store one byte (`MemWrite(_, a, 1, v)`, R8): the old byte at `a` is replaced, every other byte stays. -/
def Memory.write (m : Memory) (a : Nat) (v : Byte) : Memory :=
  match m with
  | [] => [(a, v)]
  | (b, u) :: rest =>
    if a < b then (a, v) :: (b, u) :: rest
    else if a = b then (a, v) :: rest
    else (b, u) :: Memory.write rest a v

/-- The buffer that holds a byte sequence from index `a` on and nothing else. -/
def Memory.ofBytesFrom (a : Nat) (bytes : List Byte) : Memory :=
  match bytes with
  | [] => []
  | v :: rest => (a, v) :: Memory.ofBytesFrom (a + 1) rest

/-- `INBUF[i]` as a command or the host reads it: the byte the host wrote, or the byte drawn for it at the last reset,
"fixed once drawn" (U1). -/
def State.byteIn (s : State) (i : Nat) : Byte := (s.inbuf.read? i).getD (Config.freeIn s.inDraw i)

/-- `OUTBUF[j]` as the host reads it: the delivered byte, or, outside the delivered result, any value (U2). -/
def State.byteOut (s : State) (j : Nat) : Byte := (s.outbuf.read? j).getD (Config.freeOut s.outDraw j)

/-- The output byte sequence `OUTBUF[0]`, …, `OUTBUF[OUT_LEN-1]` (R17). -/
def State.output (s : State) : List Byte := (List.range s.outLen).map s.byteOut

/-! ### The tables -/

/-- FREQ <- f, all 256 entries. -/
def State.setFreq (f : FreqTable) (s : State) : State := { s with freq := f }

/-- `NODE[0..NNODES) <- nodes`, NNODES <- their number; the slots at NNODES and above become unspecified (R66). -/
def State.setNodes (nodes : List Node) (s : State) : State :=
  { s with node := nodes, nnodes := nodes.length, nodeDraw := s.nodeDraw + 1 }

/-- CODE and RCODE are always written together (R24). -/
def State.setCodes (c : CodeTable) (r : ReverseTable) (s : State) : State := { s with code := c, rcode := r }

/-- OUT_LEN <- the length of `bytes`, `OUTBUF[0..OUT_LEN) <- bytes`; every other byte of OUTBUF is unspecified
(R25, U2). -/
def State.setOutput (bytes : List Byte) (s : State) : State :=
  { s with outLen := bytes.length, outbuf := Memory.ofBytesFrom 0 bytes, outDraw := s.outDraw + 1 }

/-! ### How a command ends -/

/-- How a command that writes OUTBUF ends: its outcome, and the bytes it delivers (none on an error, R126). -/
structure Ending where
  outcome : Ecode
  bytes : List Byte
deriving DecidableEq, Repr

/-- An error delivers nothing: "OUT_LEN = 0 is how the block says that no output was written" (R126). -/
def Ending.error (e : Ecode) : Ending := ⟨e, []⟩

/-- The ending of a command that has its whole result in hand: OutputOverflow when it has more than MAX_OUT bytes, "the
test is made on the whole result length before any of it counts as delivered" (R124); else OK. -/
def Ending.ofResult (maxOut : Nat) (bytes : List Byte) : Ending :=
  if bytes.length > maxOut then .error .outputOverflow else ⟨.ok, bytes⟩

/-- The end of a command that writes OUTBUF: on success the result is delivered and ECODE <- 0 (R28); on an error this
is `raise E` (R126): "OUT_LEN <- 0; ECODE <- the code of E; the bytes of OUTBUF become unspecified". Every table,
INBUF and IN_LEN stay as the command's earlier phases left them. There is no handler and nothing to return from
(R128): the block is ready for the next command. -/
def State.finish (e : Ending) (s : State) : State := (s.setOutput e.bytes).setEcode e.outcome

/-- A word that encodes no command (R122): "ECODE <- 2 and nothing else changes, OUT_LEN included, because no command
ran". -/
def State.illegalCommand (s : State) : State := s.setEcode .illegalCommand

/-- The reset event (R140): the state of R27, with every unspecified byte and slot drawn anew. The capacities and the
events still to come are no part of the block's state and stay. -/
def State.afterReset (s : State) : State :=
  { State.resetWith s.caps with
    pending := s.pending
    inDraw := s.inDraw + 1
    outDraw := s.outDraw + 1
    nodeDraw := s.nodeDraw + 1 }

end Sys2Proof.Machine
end

