-- ==== Sys2Proof/Machine/BitStream.lean ====
section
/-! DEFINITION. Bits and bytes: `bin8` and `val` (rule R7) and the correspondence of a bit-string and a byte sequence,
most significant bit first (rule R34). -/

namespace Sys2Proof.Machine

/-- `bin8(v)`: the 8 bits of a byte, most significant first; `bin8(v)[k] = v[7-k:7-k]` (R7). -/
def bin8 (v : Byte) : Bits :=
  [v.getLsbD 7, v.getLsbD 6, v.getLsbD 5, v.getLsbD 4, v.getLsbD 3, v.getLsbD 2, v.getLsbD 1, v.getLsbD 0]

/-- `val(B)`: "`val(eps) = 0`, `val(B ++ [b]) = 2*val(B) + b`" (R7), with the value so far as an accumulator. -/
def valFrom (acc : Nat) (b : Bits) : Nat :=
  match b with
  | [] => acc
  | x :: rest => valFrom (2 * acc + x.toNat) rest

/-- `val(B)`, the number a bit-string denotes read most significant bit first (R7). -/
def val (b : Bits) : Nat := valFrom 0 b

/-- `zeros(k)`, the string of k zero bits (R7). -/
def zeros (k : Nat) : Bits := List.replicate k false

/-- Bytes to bits (R34): `bin8(Y[0]) ++ bin8(Y[1]) ++ …`. -/
def bitsOfBytes (y : List Byte) : Bits := y.flatMap bin8

/-- The first `n` bytes of a bit-string (R34): `Y[j] = val(S[8j .. 8j+8))` for j below n. -/
def takeBytes (n : Nat) (b : Bits) : List Byte :=
  match n with
  | 0 => []
  | m + 1 => BitVec.ofNat 8 (val (b.take 8)) :: takeBytes m (b.drop 8)

/-- Bits to bytes (R34), for a bit-string whose length is a multiple of 8. -/
def bytesOfBits (b : Bits) : List Byte := takeBytes (b.length / 8) b

end Sys2Proof.Machine
end

