-- ==== Sys2Proof/Machine/Operands.lean ====
section
/-! DEFINITION. Operands. A command's operands are the fixed state elements of rule R28; the host's operand is an
element named by (space, index) (rule R31), read as a whole number in the layouts of rules R57 and R58. -/

namespace Sys2Proof.Machine

/-! ### What a command reads -/

/-- IN, the input byte sequence `INBUF[0]`, …, `INBUF[IN_LEN-1]` (R16). -/
def State.input (s : State) : List Byte := (List.range s.inLen).map s.byteIn

/-- `NODE[0..NNODES)`, what ASSIGN reads (R28). -/
def State.validNodes (s : State) : List Node := s.node.take s.nnodes

/-- The 256 byte values in ascending order: the `for s in 0..255` of the pseudocode. -/
def allBytes : List Byte := (List.range 256).map (BitVec.ofNat 8)

/-- The table whose entry of each byte value is given. -/
def tableOf {α : Type} (entry : Byte → α) : Vector α 256 := ⟨(allBytes.map entry).toArray, by simp [allBytes]⟩

/-- `FREQ[b]` (R19). -/
def countAt (f : FreqTable) (b : Byte) : Nat := f[b.toFin]

/-- `CODE[b]` (R22). -/
def codeAt (table : CodeTable) (b : Byte) : Option Bits := table[b.toFin]

/-- `RCODE(c)` (R23): the byte of the first pair with that bit-string. -/
def rcodeAt (r : ReverseTable) (c : Bits) : Option Byte :=
  match r with
  | [] => none
  | (d, b) :: rest => if d = c then some b else rcodeAt rest c

/-! ### Table entries as the host reads them -/

/-- An entry of space NODE (R57), from the most significant end: LEAF, SYM, LEFT, RIGHT, FREQ, the last of the given
width CNT_W. -/
def nodeEntry (cntW : Nat) (n : Node) : BitVec (1 + 8 + 9 + 9 + cntW) :=
  match n with
  | .leaf sym freq => 1#1 ++ sym ++ 0#9 ++ 0#9 ++ BitVec.ofNat cntW freq
  | .internal left right freq =>
    0#1 ++ 0#8 ++ BitVec.ofNat 9 left ++ BitVec.ofNat 9 right ++ BitVec.ofNat cntW freq

/-- An entry of space CODE (R58): LEN, the length of the code or 0 for `absent`, then the code left-aligned in 255
bits. -/
def codeEntry (c : Option Bits) : BitVec (8 + 255) :=
  match c with
  | none => 0#8 ++ 0#255
  | some b => BitVec.ofNat 8 b.length ++ BitVec.ofNat 255 (val b * 2 ^ (255 - b.length))

/-! ### What the host addresses -/

/-- The elements of the six spaces of R31. -/
inductive Element where
  | cmd
  | status
  | inLen
  | outLen
  | nnodes
  | inbuf (i : Nat)
  | outbuf (j : Nat)
  | freq (s : Fin 256)
  | node (i : Nat)
  | code (s : Fin 256)
deriving DecidableEq, Repr

/-- The element at (space, index), if there is one (R31, R37). -/
def resolve (c : Capacities) (a : Addr) : Option Element :=
  match a.space with
  | 0 =>
    match a.index with
    | 0 => some .cmd
    | 1 => some .status
    | 2 => some .inLen
    | 3 => some .outLen
    | 4 => some .nnodes
    | _ => none
  | 1 => if a.index < c.maxIn then some (.inbuf a.index) else none
  | 2 => if a.index < c.maxOut then some (.outbuf a.index) else none
  | 3 => if h : a.index < 256 then some (.freq ⟨a.index, h⟩) else none
  | 4 => if a.index < 511 then some (.node a.index) else none
  | 5 => if h : a.index < 256 then some (.code ⟨a.index, h⟩) else none
  | _ => none

/-- What a host read of an element returns. CMD "returns 0" (R14); a NODE slot that holds no valid entry returns any
value of an entry's width (U3). -/
def State.readElement (s : State) (e : Element) : Nat :=
  match e with
  | .cmd => 0
  | .status => s.status.toNat
  | .inLen => s.inLen
  | .outLen => s.outLen
  | .nnodes => s.nnodes
  | .inbuf i => (s.byteIn i).toNat
  | .outbuf j => (s.byteOut j).toNat
  | .freq b => s.freq[b]
  | .node i =>
    match s.validNodes[i]? with
    | some n => (nodeEntry s.caps.cntW n).toNat
    | none => Config.freeNode s.nodeDraw i % 2 ^ (27 + s.caps.cntW)
  | .code b => (codeEntry s.code[b]).toNat

end Sys2Proof.Machine
end

