-- ==== Sys2Proof/Machine/Tree.lean ====
section
/-! DEFINITION. Prefix-tree construction: the stage function `build` (rules R65 to R71) and the command BUILD
(rule R66). -/

namespace Sys2Proof.Machine

/-- The combined frequency of a node (R20). -/
def Node.freq (n : Node) : Nat :=
  match n with
  | .leaf _ f => f
  | .internal _ _ f => f

/-- The leaves, "in ascending byte value", one for each count above 0 (R66, R69). -/
def leavesOf (f : FreqTable) : List Node :=
  f.toList.zipIdx.filterMap fun e => if e.1 > 0 then some (.leaf (BitVec.ofNat 8 e.2) e.1) else none

/-- An element of the priority queue: a node's index and its frequency. -/
structure QueueItem where
  idx : Nat
  freq : Nat
deriving DecidableEq, Repr

/-- The order of the queue (R67): "the pair (combined frequency, node index) compared lexicographically". -/
def QueueItem.before (a b : QueueItem) : Bool := a.freq < b.freq || (a.freq = b.freq && a.idx < b.idx)

/-- Extract the least element: it, and the queue without it; nothing from an empty queue. -/
def extractMin (q : List QueueItem) : Option (QueueItem × List QueueItem) :=
  match q with
  | [] => none
  | x :: rest =>
    match extractMin rest with
    | none => some (x, [])
    | some (m, others) => if x.before m then some (x, rest) else some (m, x :: others)

/-- The merges of R66, at most `fuel` of them: extract a, extract b, append
`Internal(left = a, right = b, freq = NODE[a].freq + NODE[b].freq)` at the next index k and put k in the queue, until
one node remains. -/
def mergeLoop (fuel : Nat) (q : List QueueItem) (nodes : List Node) : List Node :=
  match fuel with
  | 0 => nodes
  | m + 1 =>
    match extractMin q with
    | none => nodes
    | some (a, q₁) =>
      match extractMin q₁ with
      | none => nodes
      | some (b, q₂) =>
        mergeLoop m (⟨nodes.length, a.freq + b.freq⟩ :: q₂)
          (nodes ++ [.internal a.idx b.idx (a.freq + b.freq)])

/-- The queue at the start: the set of the leaves' indices (R66). -/
def initialQueue (leaves : List Node) : List QueueItem := leaves.zipIdx.map fun p => ⟨p.2, p.1.freq⟩

/-- `build(F)` (R65, R66): the leaves, then the internal nodes in the order of the merges, of which there are one less
than leaves (R69). -/
def build (f : FreqTable) : List Node :=
  mergeLoop (leavesOf f).length (initialQueue (leavesOf f)) (leavesOf f)

/-- `NODE[0..NNODES) <- build(FREQ)`, NNODES <- its length, ECODE <- 0 (R66). -/
def State.buildPhase (s : State) : State := (s.setNodes (build s.freq)).setEcode .ok

/-- BUILD (R66): "BUILD cannot fail for any state". -/
def execBuild (s : State) : Host.Outcome State Fault Refusal := .next s.buildPhase

end Sys2Proof.Machine
end

