-- ==== Sys2Proof/Machine/CodeAssignment.lean ====
section
/-! DEFINITION. Code assignment: the stage function `assign` (rule R72) and the command ASSIGN (rule R73). -/

namespace Sys2Proof.Machine

/-- `walk(i, p)` of R73: the (byte value, path) of each leaf below node `i`, left descent "0", right descent "1".
A child's index is below its parent's (R21), so the number of nodes bounds the depth. -/
def walk (fuel : Nat) (nodes : List Node) (i : Nat) (p : Bits) : List (Byte × Bits) :=
  match fuel with
  | 0 => []
  | m + 1 =>
    match nodes[i]? with
    | none => []
    | some (.leaf sym _) => [(sym, p)]
    | some (.internal left right _) => walk m nodes left (p ++ [false]) ++ walk m nodes right (p ++ [true])

/-- The (byte value, code) pairs of a node list (R72): none for the null tree, the one-bit code "0" for a single leaf,
else the paths from the root, which is the last entry. -/
def codePairs (nodes : List Node) : List (Byte × Bits) :=
  match nodes with
  | [] => []
  | [.leaf sym _] => [(sym, [false])]
  | _ => walk nodes.length nodes (nodes.length - 1) []

/-- `CODE[sym] <- p` on a table. -/
def setCode (c : CodeTable) (b : Byte) (p : Bits) : CodeTable := c.set b.toNat (some p) b.isLt

/-- `assign(T)` (R72, R74): every entry absent, then the entry of each pair. -/
def assign (nodes : List Node) : CodeTable :=
  (codePairs nodes).foldl (fun c q => setCode c q.1 q.2) CodeTable.empty

/-- RCODE from CODE (R73): `for s in 0..255: if CODE[s] != absent: RCODE(CODE[s]) <- s`; the pair written last comes
first. -/
@[irreducible] def inverse (table : CodeTable) : ReverseTable :=
  table.toList.zipIdx.foldl
    (fun r e =>
      match e.1 with
      | some p => (p, BitVec.ofNat 8 e.2) :: r
      | none => r)
    []

/-- `CODE <- assign(NODE[0..NNODES))`, RCODE <- the inverse of the new CODE, ECODE <- 0 (R73). -/
def State.assignPhase (s : State) : State :=
  (s.setCodes (assign s.validNodes) (inverse (assign s.validNodes))).setEcode .ok

/-- ASSIGN (R73): no errors; "ASSIGN with NNODES = 0 succeeds and leaves both tables empty". -/
def execAssign (s : State) : Host.Outcome State Fault Refusal := .next s.assignPhase

end Sys2Proof.Machine
end

