-- ==== Sys2Proof/Machine/Frequency.lean ====
section
/-! DEFINITION. The frequency analyzer: the stage function `freq` (rule R60) and the command COUNT (rule R61). -/

namespace Sys2Proof.Machine

/-- `freq(data)[s]` = "the number of indices i < n with data[i] = s, for every byte value s" (R60). The sum is exact
(R62). -/
@[irreducible] def freqOf (data : List Byte) : FreqTable := tableOf fun s => data.count s

/-- `FREQ <- freq(IN)`, ECODE <- 0 (R61). -/
def State.countPhase (s : State) : State := (s.setFreq (freqOf s.input)).setEcode .ok

/-- COUNT (R61): "COUNT cannot fail for any state". -/
def execCount (s : State) : Host.Outcome State Fault Refusal := .next s.countPhase

end Sys2Proof.Machine
end

