-- ==== Sys2Proof/Machine/Pack.lean ====
section
/-! DEFINITION. Symbol-to-code translation and the bit-stream packer: the stage functions `encode_bits` (rule R80) and
`pack_bits` (rule R84), and the command PACK (rule R81). -/

namespace Sys2Proof.Machine

/-- `encode_bits(data, C)` (R80): the codes of the bytes, concatenated in order; undefined (`none`) when some byte's
code is absent. -/
def encodeBits (data : List Byte) (c : CodeTable) : Option Bits :=
  match data with
  | [] => some []
  | d :: rest =>
    match codeAt c d with
    | none => none
    | some p => (encodeBits rest c).map fun bits => p ++ bits

/-- The padding formula (R83): `pad = 8 - (L mod 8)`, 1 to 8, "never 0". -/
def padCount (len : Nat) : Nat := 8 - len % 8

/-- The frame as one bit-string (R50, R84): `F = bin8(pad) ++ B ++ zeros(pad)`. -/
def frameBits (b : Bits) : Bits :=
  bin8 (BitVec.ofNat 8 (padCount b.length)) ++ b ++ zeros (padCount b.length)

/-- `pack_bits(B)` (R84). -/
def packBits (b : Bits) : List Byte := bytesOfBits (frameBits b)

/-- How PACK ends on an input and a code table (R81): MissingCode first (R82, R125), then OutputOverflow (R86), else
the frame. -/
def packEnding (maxOut : Nat) (data : List Byte) (table : CodeTable) : Ending :=
  match encodeBits data table with
  | none => .error .missingCode
  | some b => .ofResult maxOut (packBits b)

/-- PACK's effect (R81). -/
def State.packPhase (s : State) : State := s.finish (packEnding s.caps.maxOut s.input s.code)

/-- PACK (R81). Its errors are outcomes in ECODE, after which the block goes on (R126). -/
def execPack (s : State) : Host.Outcome State Fault Refusal := .next s.packPhase

end Sys2Proof.Machine
end

