-- ==== Sys2Proof/Machine/Composite.lean ====
section
/-! DEFINITION. The whole encode, ENCODE (rule R105), and the table clear, CLEAR (rule R109). -/

namespace Sys2Proof.Machine

/-- ENCODE (R105): the phases of COUNT, BUILD, ASSIGN, PACK, "in that order, each working on the state the one before
left, all inside one atomic command". -/
def execEncode (s : State) : Host.Outcome State Fault Refusal :=
  .next s.countPhase.buildPhase.assignPhase.packPhase

/-- CLEAR's effect (R109): `FREQ[s] <- 0` and `CODE[s] <- absent` for all s; RCODE <- empty; NNODES <- 0;
OUT_LEN <- 0; ECODE <- 0; the bytes of OUTBUF and the slots of NODE become unspecified. -/
def State.clearPhase (s : State) : State :=
  ((((s.setFreq FreqTable.zero).setNodes []).setCodes CodeTable.empty []).setOutput []).setEcode .ok

/-- CLEAR (R109): it cannot fail. -/
def execClear (s : State) : Host.Outcome State Fault Refusal := .next s.clearPhase

end Sys2Proof.Machine
end

