-- ==== Sys2Proof/Machine/Unpack.lean ====
section
/-! DEFINITION. The bit-stream unpacker and the Huffman decoder: the stage functions `unpack_bits` (rules R90, R92) and
`decode_bits` (rule R95), and the commands UNPACK (rule R91) and DECODE (rule R100). -/

namespace Sys2Proof.Machine

/-- `unpack_bits(Y)` (R90): the content bits, or `none` for the verdict malformed, in the three cases of R92 and in no
other. -/
def unpackBits (y : List Byte) : Option Bits :=
  match y with
  | [] => none
  | header :: _ =>
    let t := (bitsOfBytes y).drop 8
    if header.toNat > 8 then none
    else if header.toNat > t.length then none
    else some (t.take (t.length - header.toNat))

/-- `decode_bits(T, R)` from a buffer already holding `buf` (R95): after every single bit, if the buffer is a key of R
its byte is put out and the buffer emptied; the bits left in the buffer at the end are the second component. -/
def decodeFrom (r : ReverseTable) (buf t : Bits) : List Byte × Bits :=
  match t with
  | [] => ([], buf)
  | x :: rest =>
    match rcodeAt r (buf ++ [x]) with
    | some b => let d := decodeFrom r [] rest; (b :: d.1, d.2)
    | none => decodeFrom r (buf ++ [x]) rest

/-- `decode_bits(T, R)` (R95). -/
def decodeBits (t : Bits) (r : ReverseTable) : List Byte × Bits := decodeFrom r [] t

/-- How UNPACK and DECODE end on a frame and a reverse table (R91): MalformedStream for a malformed frame (R92) or
unresolved trailing bits (R96), then OutputOverflow (R98, R99), else the decoded bytes. -/
def unpackEnding (maxOut : Nat) (frame : List Byte) (r : ReverseTable) : Ending :=
  match unpackBits frame with
  | none => .error .malformedStream
  | some t =>
    match decodeBits t r with
    | (out, []) => .ofResult maxOut out
    | (_, _ :: _) => .error .malformedStream

/-- UNPACK's effect (R91), and DECODE's (R100). -/
def State.unpackPhase (s : State) : State := s.finish (unpackEnding s.caps.maxOut s.input s.rcode)

/-- UNPACK (R91). -/
def execUnpack (s : State) : Host.Outcome State Fault Refusal := .next s.unpackPhase

/-- DECODE (R100): "exactly those of UNPACK (rule R91)". -/
def execDecode (s : State) : Host.Outcome State Fault Refusal := .next s.unpackPhase

end Sys2Proof.Machine
end

