-- ==== Sys2Proof/Machine/HostPort.lean ====
section
/-! DEFINITION. What a host transaction does (rules R14 to R19, R31 to R39): a write to CMD runs a command to completion
in the same transition, every other transaction moves one element. -/

namespace Sys2Proof.Machine

/-- Record the response of a transaction. -/
def State.respond (r : Response) (s : State) : State := { s with response := some r }

/-- The end of a command: "the transaction's response carries the new value of STATUS.ECODE" (R14). -/
def respondOutcome (o : Host.Outcome State Fault Refusal) : Host.Outcome State Fault Refusal :=
  match o with
  | .next t => .next (t.respond (.outcome t.ecode))
  | .fault f => .fault f
  | .refused r => .refused r

/-- A write of the word `w` to CMD (R14): "executes the command that w encodes … to completion as one atomic
transaction"; an illegal word raises IllegalCommand (R49, R122). -/
def commandWrite (w : Byte) (s : State) : Host.Outcome State Fault Refusal :=
  match decode w with
  | .ok i => respondOutcome (exec i s)
  | .error _ => respondOutcome (.next s.illegalCommand)

/-- A host read (R33, R38): the element, and no other effect; out of range, R37. -/
def hostRead (a : Addr) (s : State) : Host.Outcome State Fault Refusal :=
  match resolve s.caps a with
  | some e => .next (s.respond (.data (s.readElement e)))
  | none => .refused (.hostAccessOutOfRange a.space a.index)

/-- A host write of IN_LEN (R16): "a value v <= MAX_IN sets IN_LEN to v; … a value v > MAX_IN leaves IN_LEN
unchanged". -/
def State.writeInLen (v : Nat) (s : State) : State :=
  if v ≤ s.caps.maxIn then { s with inLen := v } else s

/-- A host write of a byte of INBUF (R25). -/
def State.writeByteIn (i : Nat) (b : Byte) (s : State) : State := { s with inbuf := s.inbuf.write i b }

/-- A host write (R33, R38): to CMD it runs a command, to IN_LEN or INBUF it changes that element only, to a
read-only element it "has no effect"; out of range, R37. -/
def hostWrite (a : Addr) (v : Nat) (s : State) : Host.Outcome State Fault Refusal :=
  match resolve s.caps a with
  | none => .refused (.hostAccessOutOfRange a.space a.index)
  | some .cmd =>
    if v < 256 then commandWrite (BitVec.ofNat 8 v) s else .refused (.hostValueTooWide a.space a.index v)
  | some (.inbuf i) =>
    if v < 256 then .next ((s.writeByteIn i (BitVec.ofNat 8 v)).respond .written)
    else .refused (.hostValueTooWide a.space a.index v)
  | some .inLen => .next ((s.writeInLen v).respond .written)
  | some .status => .next (s.respond .written)
  | some .outLen => .next (s.respond .written)
  | some .nnodes => .next (s.respond .written)
  | some (.outbuf _) => .next (s.respond .written)
  | some (.freq _) => .next (s.respond .written)
  | some (.node _) => .next (s.respond .written)
  | some (.code _) => .next (s.respond .written)

/-- One event (R39): a transaction, or a reset (R140). -/
def takeEvent (e : Event) (s : State) : Host.Outcome State Fault Refusal :=
  match e with
  | .txn (.read a) => hostRead a s
  | .txn (.write a v) => hostWrite a v s
  | .reset => .next s.afterReset

/-- The address of CMD: space 0, index 0 (R14). -/
def cmdAddr : Addr := ⟨0, 0⟩

/-- The event that issues the command word `w`. -/
def commandEvent (w : Byte) : Event := .txn (.write cmdAddr w.toNat)

end Sys2Proof.Machine
end

