-- ==== Sys2Proof/Machine/Step.lean ====
section
/-! DEFINITION. The step: the block takes the next event issued to it, and "does nothing between commands" (rule R30)
when there is none. There is no program counter and no fetch (rule R12): "each arrives as the data of a write to CMD"
(rule R42). -/

namespace Sys2Proof.Machine

/-- One step: the first pending event leaves the list and takes effect; with none pending the block idles. -/
def step (s : State) : Host.Outcome State Fault Refusal :=
  match s.pending with
  | [] => .next s
  | e :: rest => takeEvent e { s with pending := rest }

/-- The state in which the very next step is the host's write of the table word `w` to CMD. -/
def State.withFetchWord (s : State) (nbits w : Nat) : State :=
  { s with pending := commandEvent (tableByte nbits w) :: s.pending }

end Sys2Proof.Machine
end

