-- ==== Sys2Proof/Machine/Script.lean ====
section
/-! DEFINITION. Host scripts (rule R59): each line stands for host transactions, issued in order, each taking effect
before the next is issued (rules R39, R41). -/

namespace Sys2Proof.Machine

/-- LOAD: "one write of each byte to `INBUF[0]`, `INBUF[1]`, ... in order followed by a write of the number of bytes to
IN_LEN" (R59). `i` is the index of the first byte still to write, `n` the number of bytes in all. -/
def loadEventsFrom (i n : Nat) (bytes : List Byte) : List Event :=
  match bytes with
  | [] => [.txn (.write ⟨0, 2⟩ n)]
  | b :: rest => .txn (.write ⟨1, i⟩ b.toNat) :: loadEventsFrom (i + 1) n rest

/-- Reads of `OUTBUF[0..n)`. -/
def readOutputEvents (n : Nat) : List Event := (List.range n).map fun j => .txn (.read ⟨2, j⟩)

/-- The transactions a script line stands for, issued in state `s` (R59): XFER and READ read OUT_LEN first and then as
many bytes as it says; reads change nothing (R38), so the bytes XFER carries are those of `s`. -/
def expandLine (l : ScriptLine) (s : State) : List Event :=
  match l with
  | .command i => [commandEvent (encode i)]
  | .load bytes => loadEventsFrom 0 bytes.length bytes
  | .xfer => .txn (.read ⟨0, 3⟩) :: readOutputEvents s.outLen ++ loadEventsFrom 0 s.outLen s.output
  | .read => .txn (.read ⟨0, 1⟩) :: .txn (.read ⟨0, 3⟩) :: readOutputEvents s.outLen

/-- Issue one event and let the block take it. -/
def issue (e : Event) (s : State) : Host.Outcome State Fault Refusal :=
  step { s with pending := e :: s.pending }

/-- Issue events one after another. -/
def issueAll (es : List Event) (s : State) : Host.Outcome State Fault Refusal :=
  match es with
  | [] => .next s
  | e :: rest =>
    match issue e s with
    | .next t => issueAll rest t
    | .fault f => .fault f
    | .refused r => .refused r

/-- Run a host script from a state. -/
def runScript (ls : List ScriptLine) (s : State) : Host.Outcome State Fault Refusal :=
  match ls with
  | [] => .next s
  | l :: rest =>
    match issueAll (expandLine l s) s with
    | .next t => runScript rest t
    | .fault f => .fault f
    | .refused r => .refused r

/-- What a READ line denotes: the values of STATUS, OUT_LEN and `OUTBUF[0..OUT_LEN)` (R59). -/
def State.readLine (s : State) : Nat × Nat × List Byte :=
  (s.readElement .status, s.readElement .outLen, s.output)

end Sys2Proof.Machine
end

