-- ==== Sys2Proof/Safety.lean ====
section
/-! DEFINITION. What a sound state and a safe run are: the rules of the spec that hold "at all times" (R15 to R18, R20
to R24, R62, R70), as predicates on tables and as one invariant of the state; and the notions the claims are stated
in. -/

namespace Sys2Proof.Machine

/-! ### The node table -/

/-- The children of an entry, left first. -/
def Node.children (n : Node) : List Nat :=
  match n with
  | .leaf _ _ => []
  | .internal l r _ => [l, r]

/-- The frequency of the entry at an index; 0 if there is none. -/
def freqAt (nodes : List Node) (i : Nat) : Nat :=
  match nodes[i]? with
  | some n => n.freq
  | none => 0

/-- R21, clause by clause, for a table of `n` leaves. -/
structure StrictTree (nodes : List Node) (n : Nat) : Prop where
  /-- "NNODES = 2n-1 > 0" -/
  length_eq : nodes.length = 2 * n - 1
  pos : 1 ≤ n
  le_nsym : n ≤ 256
  /-- "entries 0 to n-1 are leaves … every leaf's `freq` is at least 1" -/
  leaves : ∀ i, i < n → ∃ sym f, nodes[i]? = some (.leaf sym f) ∧ 1 ≤ f
  /-- "in ascending order of their byte value, no two with the same value" -/
  ascending : ∀ i j a b f g, i < j → j < n →
    nodes[i]? = some (.leaf a f) → nodes[j]? = some (.leaf b g) → a.toNat < b.toNat
  /-- "entries n to 2n-2 are internal; each internal entry's `left` and `right` are different from each other and
  smaller than the entry's own index; … an internal entry's `freq` is the sum of its two children's `freq`" -/
  internals : ∀ i, n ≤ i → i < 2 * n - 1 → ∃ l r, l ≠ r ∧ l < i ∧ r < i ∧
    nodes[i]? = some (.internal l r (freqAt nodes l + freqAt nodes r))
  /-- "every entry except the last is the child of exactly one internal entry and the last entry is the child of
  none" -/
  one_parent : (nodes.flatMap Node.children).Perm (List.range (2 * n - 2))

/-- What NODE holds below NNODES (R18, R21): no tree, or a strict tree. -/
def TreeTable (nodes : List Node) : Prop := nodes = [] ∨ ∃ n, StrictTree nodes n

/-- `path(i) = p` of R72: the root is the last entry; "0" for the left child, "1" for the right. -/
inductive PathTo (nodes : List Node) : Nat → Bits → Prop where
  | root : PathTo nodes (nodes.length - 1) []
  | left {i l r f p} : PathTo nodes i p → nodes[i]? = some (.internal l r f) → PathTo nodes l (p ++ [false])
  | right {i l r f p} : PathTo nodes i p → nodes[i]? = some (.internal l r f) → PathTo nodes r (p ++ [true])

/-- The node `i` is in the priority queue when the entry `k` is about to be made: it exists and no entry made so far
has it as a child. -/
def Queued (nodes : List Node) (k i : Nat) : Prop :=
  i < k ∧ ∀ j m, j < k → nodes[j]? = some m → i ∉ m.children

/-- The order of R67 on node indices: by frequency, then by index. -/
def NotAfter (nodes : List Node) (i j : Nat) : Prop :=
  freqAt nodes i < freqAt nodes j ∨ (freqAt nodes i = freqAt nodes j ∧ i ≤ j)

/-! ### The code tables -/

/-- R22, R75, R76: every code has 1 to 255 bits, and of two different byte values neither code begins with the
other. -/
structure PrefixCode (table : CodeTable) : Prop where
  nonempty : ∀ b p, codeAt table b = some p → p ≠ []
  short : ∀ b p, codeAt table b = some p → p.length ≤ 255
  prefixFree : ∀ a b p q, a ≠ b → codeAt table a = some p → codeAt table b = some q → ¬ p <+: q

/-- R24: "`RCODE(c) = s` if and only if `CODE[s] = c`". -/
def InverseTables (table : CodeTable) (r : ReverseTable) : Prop :=
  ∀ b p, rcodeAt r p = some b ↔ codeAt table b = some p

/-- The number of byte values with a count above 0 (the n of R65). -/
def presentCount (f : FreqTable) : Nat := f.toList.countP fun n => decide (n > 0)

/-- The sum of the 256 counts. -/
def totalCount (f : FreqTable) : Nat := f.toList.sum

/-- The number of bits the codes of a table take for the counts of a frequency table: the sum over byte values of
`FREQ[s] * len(CODE[s])` (R78, R114). -/
def totalBits (f : FreqTable) (table : CodeTable) : Nat :=
  (List.zipWith (fun n p => n * (p.getD []).length) f.toList table.toList).sum

/-! ### The state -/

/-- The invariant of the block: it holds at reset and every step keeps it. -/
structure State.Inv (s : State) : Prop where
  /-- R15: STATUS[7:4] reads as 0, and ECODE 5 to 15 are never produced. -/
  status : s.status.extractLsb' 4 4 = 0#4 ∧ s.ecode.toNat ≤ 4
  /-- R16: legal values are 0 to MAX_IN. -/
  inLen_le : s.inLen ≤ s.caps.maxIn
  /-- R17: "It is always at most MAX_OUT." -/
  outLen_le : s.outLen ≤ s.caps.maxOut
  /-- The canonical form of INBUF, within its MAX_IN bytes (R25). -/
  inbuf_wf : s.inbuf.wf = true
  inbuf_range : ∀ a, (s.inbuf.read? a).isSome = true → a < s.caps.maxIn
  /-- The canonical form of OUTBUF, which holds the delivered result and nothing else (R25). -/
  outbuf_wf : s.outbuf.wf = true
  outbuf_range : ∀ a, (s.outbuf.read? a).isSome = true ↔ a < s.outLen
  /-- R18: NNODES is the number of valid entries of NODE. -/
  nnodes_eq : s.nnodes = s.node.length
  /-- R21. -/
  tree : TreeTable s.node
  /-- R62, R70: no count and no node frequency exceeds MAX_IN, so all fit CNT_W bits (R6). -/
  counts : totalCount s.freq ≤ s.caps.maxIn
  nodeCounts : ∀ n ∈ s.node, n.freq ≤ s.caps.maxIn
  /-- R22, R75, R76. -/
  codes : PrefixCode s.code
  /-- R24. -/
  tables : InverseTables s.code s.rcode

/-- A host that keeps to the spec has only well-formed events to come (R37). -/
def State.OrderlyHost (s : State) : Prop := ∀ e ∈ s.pending, e.wf s.caps = true

/-- A safe state: sound, with an orderly host. -/
def State.Safe (s : State) : Prop := s.Inv ∧ s.OrderlyHost

/-! ### Whole encodes -/

/-- The code table an encode of `data` makes (R105). -/
def codesFor (data : List Byte) : CodeTable := assign (build (freqOf data))

/-- The number of content bits of an encode of `data`: the L of R114. -/
def contentLength (data : List Byte) : Nat := totalBits (freqOf data) (codesFor data)

end Sys2Proof.Machine
end

