-- ==== Sys2Proof/Certificates/Slice0/Obligations.lean ====
section
/-! DEFINITION. The statements about the block, one for each rule or group of rules of the spec that says what a command
or the machine does. Every statement holds for every state, every pair of capacities and every value of the free
values; where one needs the invariant of reachable states it takes the clause it needs as a hypothesis. -/

open Sys2Proof Sys2Proof.Machine

/-! ### Reset and idling -/

/-- R27: the reset state, for every pair of capacities; "unspecified" is a read of the free value of U1, U2, U3. -/
def Obligations.ResetStateIsTheSpecs : Prop :=
  ∀ c : Capacities, let s := State.resetWith c
    s.caps = c ∧ s.status = 0x00#8 ∧ s.ecode = 0#4 ∧ s.inLen = 0 ∧ s.outLen = 0 ∧ s.nnodes = 0 ∧
    (∀ b, countAt s.freq b = 0) ∧ (∀ b, codeAt s.code b = none) ∧ (∀ p, rcodeAt s.rcode p = none) ∧
    (∀ i, s.readElement (.node i) = Config.freeNode s.nodeDraw i % 2 ^ (27 + c.cntW)) ∧
    (∀ i, s.byteIn i = Config.freeIn s.inDraw i) ∧ (∀ j, s.byteOut j = Config.freeOut s.outDraw j) ∧
    State.reset = State.resetWith ⟨Config.maxIn, Config.maxOut⟩

/-- The reset state meets the invariant that every step keeps. -/
def Obligations.ResetMeetsTheInvariant : Prop :=
  (∀ c : Capacities, (State.resetWith c).Inv) ∧ State.reset.Safe

/-- R30: "it does nothing between commands". -/
def Obligations.IdleBlockDoesNothing : Prop := ∀ s : State, s.pending = [] → step s = .next s

/-- R140: the reset event leads from every state to the reset state; the events still to come stay, and every
unspecified byte and slot is drawn anew (assumption 7). -/
def Obligations.ResetEventGivesTheResetState : Prop :=
  ∀ (s : State) (rest : List Event), s.pending = .reset :: rest →
    ∃ t, step s = .next t ∧
      t = { State.resetWith s.caps with pending := rest, inDraw := t.inDraw, outDraw := t.outDraw,
                                        nodeDraw := t.nodeDraw }

/-- R141: after reset the block does nothing until an event comes, and each of the eight commands is well defined on
the reset state. -/
def Obligations.FirstCommandAfterReset : Prop :=
  ∀ c : Capacities, let s := State.resetWith c
    step s = .next s ∧
    (∃ t, exec .clear s = .next t ∧ t = { s with outDraw := t.outDraw, nodeDraw := t.nodeDraw }) ∧
    (∃ t, exec .count s = .next t ∧ t.ecode = 0#4 ∧ ∀ b, countAt t.freq b = 0) ∧
    (∃ t, exec .build s = .next t ∧ t.ecode = 0#4 ∧ t.nnodes = 0) ∧
    (∃ t, exec .assign s = .next t ∧ t.ecode = 0#4 ∧ (∀ b, codeAt t.code b = none) ∧ ∀ p, rcodeAt t.rcode p = none) ∧
    (∀ i, i = .pack ∨ i = .encode → ∃ t, exec i s = .next t ∧
      if c.maxOut < 2 then t.ecode = 4#4 ∧ t.outLen = 0 else t.ecode = 0#4 ∧ t.output = [0x08#8, 0x00#8]) ∧
    (∀ i, i = .unpack ∨ i = .decode → ∃ t, exec i s = .next t ∧ t.ecode = 1#4 ∧ t.outLen = 0)

/-! ### Command words -/

/-- R45, R47: the command of each of the eight command words. -/
def Obligations.CommandWordsDecode : Prop :=
  decode 0x01#8 = .ok .clear ∧ decode 0x02#8 = .ok .count ∧ decode 0x03#8 = .ok .build ∧
  decode 0x04#8 = .ok .assign ∧ decode 0x05#8 = .ok .pack ∧ decode 0x06#8 = .ok .unpack ∧
  decode 0x07#8 = .ok .encode ∧ decode 0x08#8 = .ok .decode ∧
  (decode 0x17#8).toOption = none ∧ (decode 0x87#8).toOption = none

/-- R47: which words are legal, and that a set RSV bit makes a word illegal whatever its OPC. -/
def Obligations.LegalWordsAreOneToEight : Prop :=
  ∀ w : Byte,
    ((∃ i, decode w = .ok i) ↔ 1 ≤ w.toNat ∧ w.toNat ≤ 8) ∧
    (rsvField w ≠ 0#4 → ∀ i, decode w ≠ .ok i) ∧
    (rsvField w = 0#4 → ((∃ i, decode w = .ok i) ↔ 1 ≤ (opcField w).toNat ∧ (opcField w).toNat ≤ 8))

/-- Decoding and encoding agree, in both directions: no word has two commands and no command two words. -/
def Obligations.DecodeEncodeAgree : Prop := ∀ (w : Byte) (i : Instr), decode w = .ok i ↔ encode i = w

/-- R49, R122: a write of any other word to CMD sets ECODE to 2 and changes nothing else of the block. -/
def Obligations.IllegalWordChangesOnlyEcode : Prop :=
  ∀ (s : State) (w : Byte), w.toNat = 0 ∨ 9 ≤ w.toNat →
    hostWrite cmdAddr w.toNat s = .next { s with status := 0x02#8, response := some (.outcome 2#4) }

/-- R14, R39: when the next event is a write to CMD of a word that decodes to a command, the step is that command on
the state with the event taken, and the response carries the new ECODE. -/
def Obligations.StepRunsTheDecodedCommand : Prop :=
  ∀ (s : State) (w : Byte) (i : Instr) (rest : List Event),
    s.pending = commandEvent w :: rest → decode w = .ok i →
      ∃ t, exec i { s with pending := rest } = .next t ∧
        step s = .next { t with response := some (.outcome t.ecode) }

/-! ### Host transactions -/

/-- R38, R33: every read and every write of an element other than CMD completes; a read changes nothing (a second read
gives the same), a write to INBUF changes that byte only, a write to a read-only element changes nothing. The
response is the transaction's own, no part of the block's state. -/
def Obligations.HostAccessesHaveNoOtherEffect : Prop :=
  (∀ (s : State) (a : Addr), a.wf s.caps = true →
    ∃ e, resolve s.caps a = some e ∧
      hostRead a s = .next { s with response := some (.data (s.readElement e)) } ∧
      hostRead a { s with response := some (.data (s.readElement e)) } =
        .next { s with response := some (.data (s.readElement e)) }) ∧
  (∀ (s : State) (i : Nat) (b : Byte), i < s.caps.maxIn →
    ∃ t, hostWrite ⟨1, i⟩ b.toNat s = .next t ∧ t = { s with inbuf := t.inbuf, response := some .written } ∧
      t.byteIn i = b ∧ ∀ j, j ≠ i → t.byteIn j = s.byteIn j) ∧
  (∀ (s : State) (v : Nat), ∃ t, hostWrite ⟨0, 2⟩ v s = .next t ∧
    t = { s with inLen := t.inLen, response := some .written }) ∧
  (∀ (s : State) (a : Addr) (v : Nat), a.wf s.caps = true → a.space ≠ 1 → a ≠ ⟨0, 0⟩ → a ≠ ⟨0, 2⟩ →
    hostWrite a v s = .next { s with response := some .written })

/-- R16: a host write of IN_LEN, the input byte sequence, and that no command writes IN_LEN. -/
def Obligations.InLenIsWrittenByTheHostOnly : Prop :=
  (∀ (s : State) (v : Nat), hostWrite ⟨0, 2⟩ v s =
    .next { s with inLen := if v ≤ s.caps.maxIn then v else s.inLen, response := some .written }) ∧
  (∀ s : State, hostRead ⟨0, 2⟩ s = .next { s with response := some (.data s.inLen) }) ∧
  (∀ s : State, s.input.length = s.inLen ∧ ∀ i, i < s.inLen → s.input[i]? = some (s.byteIn i)) ∧
  (∀ (i : Instr) (s : State), ∃ t, exec i s = .next t ∧ t.inLen = s.inLen)

/-- R14, R15, R17, R18: what a read of each of the other registers returns; CMD reads 0, STATUS[7:4] reads as 0 in
every state the invariant allows. R25, R33: a read of an element of INBUF or OUTBUF returns that one byte; a byte the
spec leaves unspecified reads as the free value of assumptions 4 and 5. -/
def Obligations.RegisterReadsReturnTheRegister : Prop :=
  ∀ s : State,
    hostRead ⟨0, 0⟩ s = .next { s with response := some (.data 0) } ∧
    hostRead ⟨0, 1⟩ s = .next { s with response := some (.data s.status.toNat) } ∧
    hostRead ⟨0, 3⟩ s = .next { s with response := some (.data s.outLen) } ∧
    hostRead ⟨0, 4⟩ s = .next { s with response := some (.data s.nnodes) } ∧
    (∀ i, i < s.caps.maxIn → hostRead ⟨1, i⟩ s = .next { s with response := some (.data (s.byteIn i).toNat) }) ∧
    (∀ j, j < s.caps.maxOut → hostRead ⟨2, j⟩ s = .next { s with response := some (.data (s.byteOut j).toNat) }) ∧
    (s.Inv → s.status.toNat = s.ecode.toNat ∧ s.status.toNat ≤ 4)

/-- R31, R37: which addresses name an element, and that a read or write at any other address is refused, whatever the
value; refusing is this model's treatment (assumption 8). -/
def Obligations.OutOfRangeAccessIsRefused : Prop :=
  ∀ (s : State) (a : Addr),
    (a.wf s.caps = true ↔ ∃ e, resolve s.caps a = some e) ∧
    (a.wf s.caps = false → hostRead a s = .refused (.hostAccessOutOfRange a.space a.index) ∧
      ∀ v, hostWrite a v s = .refused (.hostAccessOutOfRange a.space a.index))

/-- What the model refuses and nothing else: a read exactly when its address is out of range (assumption 8, R37); a
write exactly then or when it carries a number above 255 to CMD or to a byte of INBUF, which is the model's choice
(assumption 9; R14, R25 and R33 give these elements 8 bits). Every other transaction answers a next state. -/
def Obligations.RefusedExactlyOutOfRangeOrTooWide : Prop :=
  ∀ (s : State) (a : Addr) (v : Nat),
    ((∃ r, hostRead a s = .refused r) ↔ a.wf s.caps = false) ∧
    ((∃ r, hostWrite a v s = .refused r) ↔
      a.wf s.caps = false ∨ ((a = cmdAddr ∨ a.space = 1) ∧ 256 ≤ v)) ∧
    (a.wf s.caps = true → (a = cmdAddr ∨ a.space = 1) → 256 ≤ v →
      hostWrite a v s = .refused (.hostValueTooWide a.space a.index v)) ∧
    (a.wf s.caps = true → (∃ t, hostRead a s = .next t) ∧
      ((a = cmdAddr ∨ a.space = 1 → v < 256) → ∃ t, hostWrite a v s = .next t))

/-- R37, R155: a host that issues only well-formed events never meets a stop: every step answers a next state, and what
is left to come is still well-formed. -/
def Obligations.OrderlyHostNeverStops : Prop :=
  ∀ s : State, s.OrderlyHost → ∃ t, step s = .next t ∧ t.OrderlyHost ∧ t.caps = s.caps

/-- R57, R58: the bit positions of the fields of a NODE entry and of a CODE entry, and that the host reads these words;
an entry of FREQ is the bare count. -/
def Obligations.TableEntriesHaveTheSpecsLayout : Prop :=
  (∀ (w : Nat) (sym : Byte) (f : Nat), let e := nodeEntry w (.leaf sym f)
    e.extractLsb' 0 w = BitVec.ofNat w f ∧ e.extractLsb' w 9 = 0#9 ∧ e.extractLsb' (w + 9) 9 = 0#9 ∧
    e.extractLsb' (w + 18) 8 = sym ∧ e.getLsbD (w + 26) = true) ∧
  (∀ (w l r f : Nat), let e := nodeEntry w (.internal l r f)
    e.extractLsb' 0 w = BitVec.ofNat w f ∧ e.extractLsb' w 9 = BitVec.ofNat 9 r ∧
    e.extractLsb' (w + 9) 9 = BitVec.ofNat 9 l ∧ e.extractLsb' (w + 18) 8 = 0#8 ∧ e.getLsbD (w + 26) = false) ∧
  codeEntry none = 0#263 ∧
  (∀ p : Bits, p.length ≤ 255 → let e := codeEntry (some p)
    e.extractLsb' 255 8 = BitVec.ofNat 8 p.length ∧
    ∀ k, k < 255 → e.getLsbD (254 - k) = (p[k]?).getD false) ∧
  (∀ (s : State) (b : Byte), hostRead ⟨5, b.toNat⟩ s =
    .next { s with response := some (.data (codeEntry (codeAt s.code b)).toNat) }) ∧
  (∀ (s : State) (b : Byte), hostRead ⟨3, b.toNat⟩ s =
    .next { s with response := some (.data (countAt s.freq b)) }) ∧
  (∀ (s : State) (i : Nat) (n : Node), i < 511 → s.validNodes[i]? = some n → hostRead ⟨4, i⟩ s =
    .next { s with response := some (.data (nodeEntry s.caps.cntW n).toNat) })

/-! ### COUNT -/

/-- R61: COUNT completes in every state, `FREQ[s]` is the number of indices below IN_LEN whose byte is s, and nothing
else changes but ECODE, which is 0. -/
def Obligations.CountCountsTheInput : Prop :=
  encode .count = 0x02#8 ∧
  ∀ s : State, ∃ t, exec .count s = .next t ∧ t.ecode = 0#4 ∧
    (∀ b, countAt t.freq b = ((List.range s.inLen).filter fun i => decide (s.byteIn i = b)).length) ∧
    t = { s with freq := t.freq, status := 0x00#8 }

/-- R63: after COUNT and after ENCODE the counts sum to IN_LEN, and the number of counts above 0 is the number of
distinct byte values of the input. -/
def Obligations.FrequencyIsConserved : Prop :=
  ∀ (s : State) (i : Instr), i = .count ∨ i = .encode →
    ∃ t, exec i s = .next t ∧ totalCount t.freq = s.inLen ∧ presentCount t.freq = s.input.toFinset.card

/-! ### BUILD -/

/-- R66, R69: BUILD completes in every state; with n counts above 0, NNODES is 0 or 2n-1, the leaves are exactly the
byte values counted, with their counts, and the table is a strict tree (R21); nothing else changes but ECODE. -/
def Obligations.BuildMakesAStrictTree : Prop :=
  ∀ s : State, ∃ t, exec .build s = .next t ∧ t.ecode = 0#4 ∧ TreeTable t.node ∧ t.nnodes = t.node.length ∧
    t.nnodes = (if presentCount s.freq = 0 then 0 else 2 * presentCount s.freq - 1) ∧
    (∀ b f, .leaf b f ∈ t.node ↔ countAt s.freq b = f ∧ 0 < f) ∧
    t = { s with node := t.node, nnodes := t.nnodes, nodeDraw := t.nodeDraw, status := 0x00#8 }

/-- R67, R68: each merge takes the two least nodes of the queue by (frequency, index); the first extracted is the left
child, the second the right. -/
def Obligations.EachMergeTakesTheTwoLeastNodes : Prop :=
  ∀ (f : FreqTable) (k l r w : Nat), (build f)[k]? = some (.internal l r w) →
    Queued (build f) k l ∧ Queued (build f) k r ∧ l ≠ r ∧
    (∀ i, Queued (build f) k i → NotAfter (build f) l i) ∧
    (∀ i, Queued (build f) k i → i ≠ l → NotAfter (build f) r i)

/-- R70: the root's frequency is the sum of all 256 counts, and no node's is 0 or above it. -/
def Obligations.RootFrequencyIsTheTotal : Prop :=
  ∀ f : FreqTable,
    (0 < totalCount f → ∃ root, (build f).getLast? = some root ∧ root.freq = totalCount f) ∧
    (∀ n ∈ build f, 0 < n.freq ∧ n.freq ≤ totalCount f)

/-- R71: no count above 0 gives no tree; exactly one gives a single leaf and no merge. -/
def Obligations.DegenerateTrees : Prop :=
  (∀ s : State, (∀ b, countAt s.freq b = 0) → ∃ t, exec .build s = .next t ∧ t.nnodes = 0 ∧ t.node = []) ∧
  (∀ (s : State) (b : Byte), 0 < countAt s.freq b → (∀ c, c ≠ b → countAt s.freq c = 0) →
    ∃ t, exec .build s = .next t ∧ t.nnodes = 1 ∧ t.node = [.leaf b (countAt s.freq b)])

/-! ### ASSIGN -/

/-- R72: on the node table of a tree the code of a byte value is the path to its leaf, "0" for a single leaf, none for
the null tree, and the reverse table is the inverse. -/
def Obligations.AssignGivesThePaths : Prop :=
  ∀ s : State, TreeTable s.node → s.nnodes = s.node.length →
    ∃ t, exec .assign s = .next t ∧ t.ecode = 0#4 ∧
      (s.node = [] → ∀ b, codeAt t.code b = none) ∧
      (∀ b f, s.node = [.leaf b f] → codeAt t.code b = some [false] ∧ ∀ c, c ≠ b → codeAt t.code c = none) ∧
      (2 ≤ s.node.length → ∀ b p, codeAt t.code b = some p ↔
        ∃ i f, s.node[i]? = some (.leaf b f) ∧ PathTo s.node i p) ∧
      InverseTables t.code t.rcode

/-- R74: ASSIGN completes in every state and replaces both tables whole: a byte value that is no leaf of the current
table has no code and is the value of no key afterwards, whatever the tables held before; nothing else changes but
ECODE. -/
def Obligations.AssignReplacesBothTables : Prop :=
  ∀ s : State, ∃ t, exec .assign s = .next t ∧ t.ecode = 0#4 ∧
    (∀ b, (∀ f, .leaf b f ∉ s.validNodes) → codeAt t.code b = none ∧ ∀ p, rcodeAt t.rcode p ≠ some b) ∧
    t = { s with code := t.code, rcode := t.rcode, status := 0x00#8 }

/-- R75: after ASSIGN on a tree, and after ENCODE from any state, no code begins with another byte value's code, and
there are as many codes as leaves. -/
def Obligations.CodesArePrefixFree : Prop :=
  (∀ s : State, TreeTable s.node → s.nnodes = s.node.length → ∃ t, exec .assign s = .next t ∧
    (∀ a b p q, a ≠ b → codeAt t.code a = some p → codeAt t.code b = some q → ¬ p <+: q) ∧
    (allBytes.filter fun b => (codeAt t.code b).isSome).length = (s.nnodes + 1) / 2) ∧
  (∀ s : State, ∃ t, exec .encode s = .next t ∧
    (∀ a b p q, a ≠ b → codeAt t.code a = some p → codeAt t.code b = some q → ¬ p <+: q) ∧
    (allBytes.filter fun b => (codeAt t.code b).isSome).length = (t.nnodes + 1) / 2)

/-- R76: with n leaves a code has at least 1 bit, at most n-1 for n at least 2, and never more than 255. -/
def Obligations.CodeLengthsAreBounded : Prop :=
  ∀ (nodes : List Node) (n : Nat) (b : Byte) (p : Bits), StrictTree nodes n → codeAt (assign nodes) b = some p →
    1 ≤ p.length ∧ (2 ≤ n → p.length ≤ n - 1) ∧ p.length ≤ 255

/-! ### Bits, frames, PACK -/

/-- R34: the first bit of the stream is the most significant bit of the first byte; the correspondence is one to one
on bit-strings of whole bytes. -/
def Obligations.BitsAndBytesCorrespond : Prop :=
  (∀ (y : List Byte) (k : Nat), k < 8 * y.length →
    ∃ v, y[k / 8]? = some v ∧ (bitsOfBytes y)[k]? = some (v.getLsbD (7 - k % 8))) ∧
  (∀ b : Bits, b.length % 8 = 0 → bitsOfBytes (bytesOfBits b) = b ∧ (bytesOfBits b).length = b.length / 8) ∧
  (∀ y : List Byte, bytesOfBits (bitsOfBytes y) = y) ∧
  (∀ v : Byte, val (bin8 v) = v.toNat)

/-- R80: `encode_bits` is defined when every byte has a code, is then the concatenation of the codes in order, and its
length is the sum over byte values of occurrences times code length. -/
def Obligations.EncodeBitsConcatenatesCodes : Prop :=
  ∀ (data : List Byte) (table : CodeTable),
    ((∃ b, encodeBits data table = some b) ↔ ∀ d ∈ data, ∃ p, codeAt table d = some p) ∧
    (∀ b, encodeBits data table = some b →
      b = (data.map fun d => (codeAt table d).getD []).flatten ∧
      b.length = (allBytes.map fun d => data.count d * ((codeAt table d).getD []).length).sum)

/-- R83, R84, R85: the pad count is 8 - (L mod 8), 1 to 8; the frame's bits are the header, the content and pad zero
bits; it has 2 + (L div 8) bytes and its first byte is the pad count. -/
def Obligations.FrameHasTheSpecsLayout : Prop :=
  ∀ b : Bits,
    1 ≤ padCount b.length ∧ padCount b.length ≤ 8 ∧ padCount b.length = 8 - b.length % 8 ∧
    (b.length + padCount b.length) % 8 = 0 ∧
    bitsOfBytes (packBits b) =
      bin8 (BitVec.ofNat 8 (padCount b.length)) ++ b ++ List.replicate (padCount b.length) false ∧
    (packBits b).length = 2 + b.length / 8 ∧
    (packBits b)[0]? = some (BitVec.ofNat 8 (padCount b.length))

/-- R81: when every input byte has a code and the frame fits, PACK completes: OUT is the frame of the concatenated
codes, OUT_LEN its length, ECODE 0; nothing else changes, INBUF included. That every byte of OUTBUF at and beyond
OUT_LEN reads as a new free value is the model's choice (assumption 5): R25 and U2 leave such a byte unspecified. -/
def Obligations.PackDeliversTheFrame : Prop :=
  ∀ (s : State) (b : Bits), encodeBits s.input s.code = some b → 2 + b.length / 8 ≤ s.caps.maxOut →
    ∃ t, exec .pack s = .next t ∧ t.ecode = 0#4 ∧ t.outLen = 2 + b.length / 8 ∧ t.output = packBits b ∧
      (∀ j, j < t.outLen → (packBits b)[j]? = some (t.byteOut j)) ∧
      (∀ j, t.outLen ≤ j → t.byteOut j = Config.freeOut t.outDraw j) ∧
      (∀ i, t.byteIn i = s.byteIn i) ∧
      t = { s with outLen := t.outLen, outbuf := t.outbuf, outDraw := t.outDraw, status := 0x00#8 }

/-- R82, R123, R125: an input byte without a code makes PACK end in MissingCode, wherever it stands and whatever
MAX_OUT is, with OUT_LEN 0 and every table and the input as before. -/
def Obligations.PackReportsAMissingCode : Prop :=
  ∀ s : State, (∃ i, i < s.inLen ∧ codeAt s.code (s.byteIn i) = none) →
    ∃ t, exec .pack s = .next t ∧ t.ecode = 3#4 ∧
      t = { s with outLen := 0, outbuf := [], outDraw := t.outDraw, status := 0x03#8 }

/-- R86: when no code is missing and the frame has more than MAX_OUT bytes PACK ends in OutputOverflow; in particular
PACK and ENCODE deliver nothing when MAX_OUT is 0 or 1. -/
def Obligations.PackReportsAnOverflow : Prop :=
  (∀ (s : State) (b : Bits), encodeBits s.input s.code = some b → s.caps.maxOut < 2 + b.length / 8 →
    ∃ t, exec .pack s = .next t ∧ t.ecode = 4#4 ∧
      t = { s with outLen := 0, outbuf := [], outDraw := t.outDraw, status := 0x04#8 }) ∧
  (∀ (s : State) (i : Instr), i = .pack ∨ i = .encode → s.caps.maxOut < 2 →
    ∃ t, exec i s = .next t ∧ t.ecode ≠ 0#4 ∧ t.outLen = 0)

/-! ### UNPACK and DECODE -/

/-- R90, R92: the three malformed headers and no other; otherwise the content is the bits after the header less the pad
count from the end; and unpacking a packed bit-string gives it back. -/
def Obligations.MalformedHeadersAndContent : Prop :=
  (∀ b : Bits, unpackBits (packBits b) = some b) ∧
  ∀ y : List Byte,
    (unpackBits y = none ↔ y = [] ∨ ∃ h rest, y = h :: rest ∧ (8 < h.toNat ∨ 8 * rest.length < h.toNat)) ∧
    (∀ b, unpackBits y = some b →
      ∃ h rest, y = h :: rest ∧ b = (bitsOfBytes rest).take (8 * rest.length - h.toNat))

/-- R53, R94: the values of the stripped bits are not examined: two frames that agree on the header and the content
bits decode alike. -/
def Obligations.PaddingBitsAreNotExamined : Prop :=
  ∀ (h : Byte) (x y : List Byte), x.length = y.length →
    (∀ k, k < 8 * x.length - h.toNat → (bitsOfBytes x)[k]? = (bitsOfBytes y)[k]?) →
    unpackBits (h :: x) = unpackBits (h :: y)

/-- R95: the scan cuts the content into words, each the shortest key from its start, put out in order; what is left
holds no key from its start. -/
def Obligations.DecoderTakesTheShortestMatch : Prop :=
  ∀ (t : Bits) (r : ReverseTable), ∃ ws : List Bits,
    t = ws.flatten ++ (decodeBits t r).2 ∧
    ws.map (rcodeAt r) = (decodeBits t r).1.map some ∧
    (∀ w ∈ ws, w ≠ [] ∧ ∀ p, p <+: w → p ≠ [] → p ≠ w → rcodeAt r p = none) ∧
    (∀ p, p <+: (decodeBits t r).2 → p ≠ [] → rcodeAt r p = none)

/-- R91, R100: when the frame is well-formed, resolves completely and fits, UNPACK and DECODE complete: OUT is the
decoded bytes, ECODE 0; nothing else changes. That every byte of OUTBUF at and beyond OUT_LEN reads as a new free value
is the model's choice (assumption 5): R25 and U2 leave such a byte unspecified. -/
def Obligations.UnpackDeliversTheBytes : Prop :=
  ∀ (s : State) (i : Instr) (b : Bits) (out : List Byte), i = .unpack ∨ i = .decode →
    unpackBits s.input = some b → decodeBits b s.rcode = (out, []) → out.length ≤ s.caps.maxOut →
    ∃ t, exec i s = .next t ∧ t.ecode = 0#4 ∧ t.outLen = out.length ∧ t.output = out ∧
      (∀ j, j < t.outLen → out[j]? = some (t.byteOut j)) ∧
      (∀ j, t.outLen ≤ j → t.byteOut j = Config.freeOut t.outDraw j) ∧
      (∀ k, t.byteIn k = s.byteIn k) ∧
      t = { s with outLen := t.outLen, outbuf := t.outbuf, outDraw := t.outDraw, status := 0x00#8 }

/-- R96, R98, R99, R121: a malformed frame or unresolved trailing bits end UNPACK and DECODE in MalformedStream,
whatever MAX_OUT is; a frame that resolves to more than MAX_OUT bytes in OutputOverflow; nothing is delivered. -/
def Obligations.UnpackReportsItsErrors : Prop :=
  ∀ (s : State) (i : Instr), i = .unpack ∨ i = .decode →
    ((unpackBits s.input = none ∨ ∃ b, unpackBits s.input = some b ∧ (decodeBits b s.rcode).2 ≠ []) →
      ∃ t, exec i s = .next t ∧ t.ecode = 1#4 ∧
        t = { s with outLen := 0, outbuf := [], outDraw := t.outDraw, status := 0x01#8 }) ∧
    (∀ b, unpackBits s.input = some b → (decodeBits b s.rcode).2 = [] →
      s.caps.maxOut < (decodeBits b s.rcode).1.length →
      ∃ t, exec i s = .next t ∧ t.ecode = 4#4 ∧
        t = { s with outLen := 0, outbuf := [], outDraw := t.outDraw, status := 0x04#8 })

/-- R100: "for every state, executing DECODE gives the same state as executing UNPACK". -/
def Obligations.DecodeIsUnpack : Prop :=
  encode .decode = 0x08#8 ∧ ∀ s : State, exec .decode s = exec .unpack s

/-- R102: with an empty RCODE a frame of empty content decodes to the empty output, every other well-formed frame is
malformed. -/
def Obligations.EmptyTableDecodesOnlyEmptyContent : Prop :=
  ∀ (s : State) (i : Instr) (b : Bits), i = .unpack ∨ i = .decode → (∀ p, rcodeAt s.rcode p = none) →
    unpackBits s.input = some b →
    ∃ t, exec i s = .next t ∧ t.outLen = 0 ∧ (b = [] → t.ecode = 0#4) ∧ (b ≠ [] → t.ecode = 1#4)

/-- R104: with the inverse of the same prefix code, decoding gives back exactly the packed bytes and leaves no bit. -/
def Obligations.DecodingInvertsEncoding : Prop :=
  ∀ (data : List Byte) (table : CodeTable) (r : ReverseTable) (b : Bits),
    PrefixCode table → InverseTables table r → encodeBits data table = some b →
    unpackBits (packBits b) = some b ∧ decodeBits b r = (data, [])

/-! ### ENCODE and CLEAR -/

/-- R111: ENCODE leaves exactly the state the four commands leave one after the other, errors included. -/
def Obligations.EncodeIsTheFourCommands : Prop :=
  ∀ s : State, ∃ a b c d, exec .count s = .next a ∧ exec .build a = .next b ∧ exec .assign b = .next c ∧
    exec .pack c = .next d ∧ exec .encode s = .next d

/-- R107: ENCODE never ends in MissingCode, and the byte values with a code afterwards are exactly those of the
input. -/
def Obligations.EncodeNeverMissesACode : Prop :=
  ∀ s : State, ∃ t, exec .encode s = .next t ∧ t.ecode ≠ 3#4 ∧
    (∃ b, encodeBits s.input t.code = some b) ∧
    ∀ b, (∃ p, codeAt t.code b = some p) ↔ b ∈ s.input

/-- R105: when the frame fits, ENCODE completes from any state: FREQ, NODE, CODE, RCODE are those of the input, OUT is
the frame of the input's codes, ECODE 0; INBUF and IN_LEN are unchanged. That every byte of OUTBUF at and beyond OUT_LEN
reads as a new free value is the model's choice (assumption 5): R25 and U2 leave such a byte unspecified. -/
def Obligations.EncodeDeliversTheFrame : Prop :=
  ∀ s : State, 2 + contentLength s.input / 8 ≤ s.caps.maxOut →
    ∃ t b, exec .encode s = .next t ∧ t.ecode = 0#4 ∧
      t.freq = freqOf s.input ∧ t.node = build t.freq ∧ t.nnodes = t.node.length ∧ t.code = assign t.node ∧
      InverseTables t.code t.rcode ∧
      encodeBits s.input t.code = some b ∧ b.length = contentLength s.input ∧
      t.outLen = 2 + b.length / 8 ∧ t.output = packBits b ∧
      (∀ j, t.outLen ≤ j → t.byteOut j = Config.freeOut t.outDraw j) ∧ (∀ i, t.byteIn i = s.byteIn i) ∧
      t = { s with freq := t.freq, node := t.node, nnodes := t.nnodes, nodeDraw := t.nodeDraw, code := t.code,
                   rcode := t.rcode, outLen := t.outLen, outbuf := t.outbuf, outDraw := t.outDraw,
                   status := 0x00#8 }

/-- R106: when the frame does not fit ENCODE ends in OutputOverflow with OUT_LEN 0, and the tables are those of the
failed encode. -/
def Obligations.EncodeOverflowKeepsTheNewTables : Prop :=
  ∀ s : State, s.caps.maxOut < 2 + contentLength s.input / 8 →
    ∃ t, exec .encode s = .next t ∧ t.ecode = 4#4 ∧ t.outLen = 0 ∧
      t.freq = freqOf s.input ∧ t.node = build t.freq ∧ t.nnodes = t.node.length ∧ t.code = assign t.node ∧
      InverseTables t.code t.rcode ∧
      t = { s with freq := t.freq, node := t.node, nnodes := t.nnodes, nodeDraw := t.nodeDraw, code := t.code,
                   rcode := t.rcode, outLen := 0, outbuf := [], outDraw := t.outDraw, status := 0x04#8 }

/-- R108 (2): N at least 1 copies of one byte value: one leaf, the code "0", N zero bits of content. -/
def Obligations.OneByteValueRepeated : Prop :=
  ∀ (s : State) (b : Byte), 1 ≤ s.inLen → (∀ i, i < s.inLen → s.byteIn i = b) → 2 + s.inLen / 8 ≤ s.caps.maxOut →
    ∃ t, exec .encode s = .next t ∧ t.ecode = 0#4 ∧ countAt t.freq b = s.inLen ∧ t.nnodes = 1 ∧
      t.node = [.leaf b s.inLen] ∧ codeAt t.code b = some [false] ∧
      t.output = BitVec.ofNat 8 (8 - s.inLen % 8) :: List.replicate (s.inLen / 8 + 1) 0x00#8

/-- R112: for every frame PACK or ENCODE writes, the first byte is 1 to 8, that many last bits are 0, and stripping
them gives the content bits. -/
def Obligations.PaddingIsCorrect : Prop :=
  ∀ (s t : State) (i : Instr), i = .pack ∨ i = .encode → exec i s = .next t → t.ecode = 0#4 →
    ∃ h, t.output[0]? = some h ∧ 1 ≤ h.toNat ∧ h.toNat ≤ 8 ∧
      (bitsOfBytes t.output).drop (8 * t.outLen - h.toNat) = List.replicate h.toNat false ∧
      unpackBits t.output = encodeBits s.input t.code

/-- R147: the tables are a function of the counts alone: two inputs with the same bytes in another order give the same
FREQ, NODE, CODE and RCODE. -/
def Obligations.SameCountsGiveTheSameTables : Prop :=
  ∀ s u : State, s.input.Perm u.input →
    ∃ t v, exec .encode s = .next t ∧ exec .encode u = .next v ∧
      t.freq = v.freq ∧ t.node = v.node ∧ t.nnodes = v.nnodes ∧ t.code = v.code ∧ t.rcode = v.rcode

/-- R114, without optimality: the content has at most 255 bits for each input byte, and one bit for each when there is
one byte value. -/
def Obligations.ContentLengthIsBounded : Prop :=
  ∀ data : List Byte, contentLength data ≤ 255 * data.length ∧
    ∀ b, (∀ d ∈ data, d = b) → contentLength data = data.length

/-- R78: for two or more byte values no prefix code takes fewer bits than the code of the tree. The spec records this
as the source's claim; no command depends on it. -/
def Obligations.TreeCodeIsOptimal : Prop :=
  ∀ (f : FreqTable) (table : CodeTable), 2 ≤ presentCount f →
    (∀ b, 0 < countAt f b → ∃ p, codeAt table b = some p) →
    (∀ a b p q, a ≠ b → codeAt table a = some p → codeAt table b = some q → ¬ p <+: q) →
    totalBits f (assign (build f)) ≤ totalBits f table

/-- R110: from any state, LOAD B, ENCODE, XFER, DECODE ends with ECODE 0 and B in the output, when the capacities allow
each step; and the same law of the stage functions, without any capacity. -/
def Obligations.RoundTrip : Prop :=
  (∀ (s : State) (data : List Byte),
    data.length ≤ s.caps.maxIn → 2 + contentLength data / 8 ≤ s.caps.maxOut →
    2 + contentLength data / 8 ≤ s.caps.maxIn → data.length ≤ s.caps.maxOut →
    ∃ t, runScript [.load data, .command .encode, .xfer, .command .decode] s = .next t ∧
      t.ecode = 0#4 ∧ t.outLen = data.length ∧ t.output = data) ∧
  (∀ data : List Byte, ∃ b, encodeBits data (codesFor data) = some b ∧ unpackBits (packBits b) = some b ∧
    decodeBits b (inverse (codesFor data)) = (data, []))

/-- R109: CLEAR completes in every state, and leaves the reset state but for IN_LEN and INBUF. The event list, the
response and the draw counters are the model's own. -/
def Obligations.ClearGivesFreshTables : Prop :=
  encode .clear = 0x01#8 ∧
  ∀ s : State, ∃ t, exec .clear s = .next t ∧ t.ecode = 0#4 ∧ (∀ b, countAt t.freq b = 0) ∧
    (∀ b, codeAt t.code b = none) ∧ (∀ p, rcodeAt t.rcode p = none) ∧ t.nnodes = 0 ∧ t.outLen = 0 ∧
    (∀ i, t.byteIn i = s.byteIn i) ∧ (∀ j, t.byteOut j = Config.freeOut t.outDraw j) ∧
    t = { State.resetWith s.caps with inLen := s.inLen, inbuf := s.inbuf, pending := s.pending,
                                      response := s.response, inDraw := s.inDraw, outDraw := t.outDraw,
                                      nodeDraw := t.nodeDraw }

/-! ### Errors and whole-machine rules -/

/-- R120: every command ends in one of the outcomes the table lists for it, and in no other. -/
def Obligations.OutcomesOfEachCommand : Prop :=
  ∀ (i : Instr) (s : State), ∃ t, exec i s = .next t ∧
    match i with
    | .clear => t.ecode = 0#4
    | .count => t.ecode = 0#4
    | .build => t.ecode = 0#4
    | .assign => t.ecode = 0#4
    | .pack => t.ecode = 0#4 ∨ t.ecode = 3#4 ∨ t.ecode = 4#4
    | .unpack => t.ecode = 0#4 ∨ t.ecode = 1#4 ∨ t.ecode = 4#4
    | .encode => t.ecode = 0#4 ∨ t.ecode = 4#4
    | .decode => t.ecode = 0#4 ∨ t.ecode = 1#4 ∨ t.ecode = 4#4

/-- R126: after a command that ended in an error OUT_LEN is 0, no byte of OUTBUF is specified, the input is as before,
and so is every table, but ENCODE's, which are those of the failed encode; the response carries the code. -/
def Obligations.ErrorEntry : Prop :=
  ∀ (i : Instr) (s t : State), exec i s = .next t → t.ecode ≠ 0#4 →
    t.outLen = 0 ∧ (∀ j, t.byteOut j = Config.freeOut t.outDraw j) ∧
    t.inLen = s.inLen ∧ (∀ k, t.byteIn k = s.byteIn k) ∧
    (i ≠ .encode → t.freq = s.freq ∧ t.node = s.node ∧ t.nnodes = s.nnodes ∧ t.code = s.code ∧ t.rcode = s.rcode) ∧
    (i = .encode → t.freq = freqOf s.input ∧ t.node = build t.freq ∧ t.nnodes = t.node.length ∧
      t.code = assign t.node ∧ t.rcode = inverse t.code) ∧
    commandWrite (encode i) s = .next { t with response := some (.outcome t.ecode) }

/-- R28: what COUNT, BUILD and ASSIGN leave unchanged: both buffers, every byte of them, both lengths, and every table
they do not write. -/
def Obligations.TableCommandsFrame : Prop :=
  ∀ (i : Instr) (s t : State), i = .count ∨ i = .build ∨ i = .assign → exec i s = .next t →
    t.inLen = s.inLen ∧ t.outLen = s.outLen ∧ (∀ a, t.byteIn a = s.byteIn a) ∧ (∀ a, t.byteOut a = s.byteOut a) ∧
    (i ≠ .count → t.freq = s.freq) ∧ (i ≠ .build → t.node = s.node ∧ t.nnodes = s.nnodes) ∧
    (i ≠ .assign → t.code = s.code ∧ t.rcode = s.rcode)

/-- R28, the column "reads" of COUNT, BUILD and ASSIGN, and R64: two states that agree on what the command reads agree
afterwards on what it writes. -/
def Obligations.TableCommandsReadOnlyTheirOperands : Prop :=
  ∀ s u : State,
    (s.inLen = u.inLen → (∀ i, i < s.inLen → s.byteIn i = u.byteIn i) →
      ∃ t v, exec .count s = .next t ∧ exec .count u = .next v ∧ t.freq = v.freq ∧ t.status = v.status) ∧
    (s.freq = u.freq →
      ∃ t v, exec .build s = .next t ∧ exec .build u = .next v ∧ t.nnodes = v.nnodes ∧ t.node = v.node ∧
        t.status = v.status) ∧
    (s.nnodes = u.nnodes → (∀ i, i < s.nnodes → s.node[i]? = u.node[i]?) →
      ∃ t v, exec .assign s = .next t ∧ exec .assign u = .next v ∧ t.code = v.code ∧ t.rcode = v.rcode ∧
        t.status = v.status)

/-- R28, the column "reads" of PACK, UNPACK, DECODE and ENCODE, and R26: only the input and CODE, or RCODE, or nothing
more, decide the output and the outcome; FREQ, NODE and the old output do not. -/
def Obligations.StreamCommandsReadOnlyTheirOperands : Prop :=
  ∀ (i : Instr) (s u : State), s.caps = u.caps → s.inLen = u.inLen →
    (∀ k, k < s.inLen → s.byteIn k = u.byteIn k) →
    (i = .pack ∧ s.code = u.code) ∨ ((i = .unpack ∨ i = .decode) ∧ s.rcode = u.rcode) ∨ i = .encode →
    ∃ t v, exec i s = .next t ∧ exec i u = .next v ∧ t.status = v.status ∧ t.outLen = v.outLen ∧
      (∀ j, j < t.outLen → t.byteOut j = v.byteOut j) ∧
      (i = .encode → t.freq = v.freq ∧ t.node = v.node ∧ t.nnodes = v.nnodes ∧ t.code = v.code ∧ t.rcode = v.rcode)

/-- R13: no command reads ECODE: the outcome of an earlier command has no influence. -/
def Obligations.NoCommandReadsEcode : Prop :=
  ∀ (i : Instr) (s : State) (w : BitVec 8), exec i { s with status := w } = exec i s

/-- R16, R17: IN_LEN stays at most MAX_IN and OUT_LEN at most MAX_OUT, and no step changes the capacities (R29). -/
def Obligations.LengthsStayWithinCapacity : Prop :=
  ∀ s t : State, s.inLen ≤ s.caps.maxIn → s.outLen ≤ s.caps.maxOut → step s = .next t →
    t.caps = s.caps ∧ t.inLen ≤ t.caps.maxIn ∧ t.outLen ≤ t.caps.maxOut

/-- R15 to R18, R20 to R24, R62, R70: every step from a state that meets the invariant gives a state that meets it. -/
def Obligations.StepKeepsTheInvariant : Prop := ∀ s t : State, s.Inv → step s = .next t → t.Inv
end

