-- ==== Sys2Proof/Laws/State.lean ====
section
/-! SUPPORT. Each field of the state after each update, so that no proof unfolds a record update; the lemmas are true by
`rfl` for an update, by the lemmas of its updates for a command. -/

namespace Sys2Proof.Machine

@[simp] theorem Memory.ofBytesFrom_nil (a : Nat) : Memory.ofBytesFrom a [] = [] := rfl

/-! ### setEcode -/

@[simp] theorem State.setEcode_caps (e : Ecode) (s : State) : (s.setEcode e).caps = s.caps := rfl
@[simp] theorem State.setEcode_status (e : Ecode) (s : State) : (s.setEcode e).status = statusWord e := rfl
@[simp] theorem State.setEcode_inLen (e : Ecode) (s : State) : (s.setEcode e).inLen = s.inLen := rfl
@[simp] theorem State.setEcode_outLen (e : Ecode) (s : State) : (s.setEcode e).outLen = s.outLen := rfl
@[simp] theorem State.setEcode_nnodes (e : Ecode) (s : State) : (s.setEcode e).nnodes = s.nnodes := rfl
@[simp] theorem State.setEcode_freq (e : Ecode) (s : State) : (s.setEcode e).freq = s.freq := rfl
@[simp] theorem State.setEcode_node (e : Ecode) (s : State) : (s.setEcode e).node = s.node := rfl
@[simp] theorem State.setEcode_code (e : Ecode) (s : State) : (s.setEcode e).code = s.code := rfl
@[simp] theorem State.setEcode_rcode (e : Ecode) (s : State) : (s.setEcode e).rcode = s.rcode := rfl
@[simp] theorem State.setEcode_inbuf (e : Ecode) (s : State) : (s.setEcode e).inbuf = s.inbuf := rfl
@[simp] theorem State.setEcode_outbuf (e : Ecode) (s : State) : (s.setEcode e).outbuf = s.outbuf := rfl
@[simp] theorem State.setEcode_pending (e : Ecode) (s : State) : (s.setEcode e).pending = s.pending := rfl
@[simp] theorem State.setEcode_response (e : Ecode) (s : State) : (s.setEcode e).response = s.response := rfl
@[simp] theorem State.setEcode_inDraw (e : Ecode) (s : State) : (s.setEcode e).inDraw = s.inDraw := rfl
@[simp] theorem State.setEcode_outDraw (e : Ecode) (s : State) : (s.setEcode e).outDraw = s.outDraw := rfl
@[simp] theorem State.setEcode_nodeDraw (e : Ecode) (s : State) : (s.setEcode e).nodeDraw = s.nodeDraw := rfl

/-! ### setFreq -/

@[simp] theorem State.setFreq_caps (f : FreqTable) (s : State) : (s.setFreq f).caps = s.caps := rfl
@[simp] theorem State.setFreq_status (f : FreqTable) (s : State) : (s.setFreq f).status = s.status := rfl
@[simp] theorem State.setFreq_inLen (f : FreqTable) (s : State) : (s.setFreq f).inLen = s.inLen := rfl
@[simp] theorem State.setFreq_outLen (f : FreqTable) (s : State) : (s.setFreq f).outLen = s.outLen := rfl
@[simp] theorem State.setFreq_nnodes (f : FreqTable) (s : State) : (s.setFreq f).nnodes = s.nnodes := rfl
@[simp] theorem State.setFreq_freq (f : FreqTable) (s : State) : (s.setFreq f).freq = f := rfl
@[simp] theorem State.setFreq_node (f : FreqTable) (s : State) : (s.setFreq f).node = s.node := rfl
@[simp] theorem State.setFreq_code (f : FreqTable) (s : State) : (s.setFreq f).code = s.code := rfl
@[simp] theorem State.setFreq_rcode (f : FreqTable) (s : State) : (s.setFreq f).rcode = s.rcode := rfl
@[simp] theorem State.setFreq_inbuf (f : FreqTable) (s : State) : (s.setFreq f).inbuf = s.inbuf := rfl
@[simp] theorem State.setFreq_outbuf (f : FreqTable) (s : State) : (s.setFreq f).outbuf = s.outbuf := rfl
@[simp] theorem State.setFreq_pending (f : FreqTable) (s : State) : (s.setFreq f).pending = s.pending := rfl
@[simp] theorem State.setFreq_response (f : FreqTable) (s : State) : (s.setFreq f).response = s.response := rfl
@[simp] theorem State.setFreq_inDraw (f : FreqTable) (s : State) : (s.setFreq f).inDraw = s.inDraw := rfl
@[simp] theorem State.setFreq_outDraw (f : FreqTable) (s : State) : (s.setFreq f).outDraw = s.outDraw := rfl
@[simp] theorem State.setFreq_nodeDraw (f : FreqTable) (s : State) : (s.setFreq f).nodeDraw = s.nodeDraw := rfl

/-! ### setNodes -/

@[simp] theorem State.setNodes_caps (ns : List Node) (s : State) : (s.setNodes ns).caps = s.caps := rfl
@[simp] theorem State.setNodes_status (ns : List Node) (s : State) : (s.setNodes ns).status = s.status := rfl
@[simp] theorem State.setNodes_inLen (ns : List Node) (s : State) : (s.setNodes ns).inLen = s.inLen := rfl
@[simp] theorem State.setNodes_outLen (ns : List Node) (s : State) : (s.setNodes ns).outLen = s.outLen := rfl
@[simp] theorem State.setNodes_nnodes (ns : List Node) (s : State) : (s.setNodes ns).nnodes = ns.length := rfl
@[simp] theorem State.setNodes_freq (ns : List Node) (s : State) : (s.setNodes ns).freq = s.freq := rfl
@[simp] theorem State.setNodes_node (ns : List Node) (s : State) : (s.setNodes ns).node = ns := rfl
@[simp] theorem State.setNodes_code (ns : List Node) (s : State) : (s.setNodes ns).code = s.code := rfl
@[simp] theorem State.setNodes_rcode (ns : List Node) (s : State) : (s.setNodes ns).rcode = s.rcode := rfl
@[simp] theorem State.setNodes_inbuf (ns : List Node) (s : State) : (s.setNodes ns).inbuf = s.inbuf := rfl
@[simp] theorem State.setNodes_outbuf (ns : List Node) (s : State) : (s.setNodes ns).outbuf = s.outbuf := rfl
@[simp] theorem State.setNodes_pending (ns : List Node) (s : State) : (s.setNodes ns).pending = s.pending := rfl
@[simp] theorem State.setNodes_response (ns : List Node) (s : State) : (s.setNodes ns).response = s.response := rfl
@[simp] theorem State.setNodes_inDraw (ns : List Node) (s : State) : (s.setNodes ns).inDraw = s.inDraw := rfl
@[simp] theorem State.setNodes_outDraw (ns : List Node) (s : State) : (s.setNodes ns).outDraw = s.outDraw := rfl
@[simp] theorem State.setNodes_nodeDraw (ns : List Node) (s : State) : (s.setNodes ns).nodeDraw = s.nodeDraw + 1 := rfl

/-! ### setCodes -/

@[simp] theorem State.setCodes_caps (t : CodeTable) (r : ReverseTable) (s : State) : (s.setCodes t r).caps = s.caps := rfl
@[simp] theorem State.setCodes_status (t : CodeTable) (r : ReverseTable) (s : State) : (s.setCodes t r).status = s.status := rfl
@[simp] theorem State.setCodes_inLen (t : CodeTable) (r : ReverseTable) (s : State) : (s.setCodes t r).inLen = s.inLen := rfl
@[simp] theorem State.setCodes_outLen (t : CodeTable) (r : ReverseTable) (s : State) : (s.setCodes t r).outLen = s.outLen := rfl
@[simp] theorem State.setCodes_nnodes (t : CodeTable) (r : ReverseTable) (s : State) : (s.setCodes t r).nnodes = s.nnodes := rfl
@[simp] theorem State.setCodes_freq (t : CodeTable) (r : ReverseTable) (s : State) : (s.setCodes t r).freq = s.freq := rfl
@[simp] theorem State.setCodes_node (t : CodeTable) (r : ReverseTable) (s : State) : (s.setCodes t r).node = s.node := rfl
@[simp] theorem State.setCodes_code (t : CodeTable) (r : ReverseTable) (s : State) : (s.setCodes t r).code = t := rfl
@[simp] theorem State.setCodes_rcode (t : CodeTable) (r : ReverseTable) (s : State) : (s.setCodes t r).rcode = r := rfl
@[simp] theorem State.setCodes_inbuf (t : CodeTable) (r : ReverseTable) (s : State) : (s.setCodes t r).inbuf = s.inbuf := rfl
@[simp] theorem State.setCodes_outbuf (t : CodeTable) (r : ReverseTable) (s : State) : (s.setCodes t r).outbuf = s.outbuf := rfl
@[simp] theorem State.setCodes_pending (t : CodeTable) (r : ReverseTable) (s : State) : (s.setCodes t r).pending = s.pending := rfl
@[simp] theorem State.setCodes_response (t : CodeTable) (r : ReverseTable) (s : State) : (s.setCodes t r).response = s.response := rfl
@[simp] theorem State.setCodes_inDraw (t : CodeTable) (r : ReverseTable) (s : State) : (s.setCodes t r).inDraw = s.inDraw := rfl
@[simp] theorem State.setCodes_outDraw (t : CodeTable) (r : ReverseTable) (s : State) : (s.setCodes t r).outDraw = s.outDraw := rfl
@[simp] theorem State.setCodes_nodeDraw (t : CodeTable) (r : ReverseTable) (s : State) : (s.setCodes t r).nodeDraw = s.nodeDraw := rfl

/-! ### setOutput -/

@[simp] theorem State.setOutput_caps (bytes : List Byte) (s : State) : (s.setOutput bytes).caps = s.caps := rfl
@[simp] theorem State.setOutput_status (bytes : List Byte) (s : State) : (s.setOutput bytes).status = s.status := rfl
@[simp] theorem State.setOutput_inLen (bytes : List Byte) (s : State) : (s.setOutput bytes).inLen = s.inLen := rfl
@[simp] theorem State.setOutput_outLen (bytes : List Byte) (s : State) : (s.setOutput bytes).outLen = bytes.length := rfl
@[simp] theorem State.setOutput_nnodes (bytes : List Byte) (s : State) : (s.setOutput bytes).nnodes = s.nnodes := rfl
@[simp] theorem State.setOutput_freq (bytes : List Byte) (s : State) : (s.setOutput bytes).freq = s.freq := rfl
@[simp] theorem State.setOutput_node (bytes : List Byte) (s : State) : (s.setOutput bytes).node = s.node := rfl
@[simp] theorem State.setOutput_code (bytes : List Byte) (s : State) : (s.setOutput bytes).code = s.code := rfl
@[simp] theorem State.setOutput_rcode (bytes : List Byte) (s : State) : (s.setOutput bytes).rcode = s.rcode := rfl
@[simp] theorem State.setOutput_inbuf (bytes : List Byte) (s : State) : (s.setOutput bytes).inbuf = s.inbuf := rfl
@[simp] theorem State.setOutput_outbuf (bytes : List Byte) (s : State) : (s.setOutput bytes).outbuf = Memory.ofBytesFrom 0 bytes := rfl
@[simp] theorem State.setOutput_pending (bytes : List Byte) (s : State) : (s.setOutput bytes).pending = s.pending := rfl
@[simp] theorem State.setOutput_response (bytes : List Byte) (s : State) : (s.setOutput bytes).response = s.response := rfl
@[simp] theorem State.setOutput_inDraw (bytes : List Byte) (s : State) : (s.setOutput bytes).inDraw = s.inDraw := rfl
@[simp] theorem State.setOutput_outDraw (bytes : List Byte) (s : State) : (s.setOutput bytes).outDraw = s.outDraw + 1 := rfl
@[simp] theorem State.setOutput_nodeDraw (bytes : List Byte) (s : State) : (s.setOutput bytes).nodeDraw = s.nodeDraw := rfl

/-! ### finish -/

@[simp] theorem State.finish_caps (e : Ending) (s : State) : (s.finish e).caps = s.caps := rfl
@[simp] theorem State.finish_status (e : Ending) (s : State) : (s.finish e).status = statusWord e.outcome := rfl
@[simp] theorem State.finish_inLen (e : Ending) (s : State) : (s.finish e).inLen = s.inLen := rfl
@[simp] theorem State.finish_outLen (e : Ending) (s : State) : (s.finish e).outLen = e.bytes.length := rfl
@[simp] theorem State.finish_nnodes (e : Ending) (s : State) : (s.finish e).nnodes = s.nnodes := rfl
@[simp] theorem State.finish_freq (e : Ending) (s : State) : (s.finish e).freq = s.freq := rfl
@[simp] theorem State.finish_node (e : Ending) (s : State) : (s.finish e).node = s.node := rfl
@[simp] theorem State.finish_code (e : Ending) (s : State) : (s.finish e).code = s.code := rfl
@[simp] theorem State.finish_rcode (e : Ending) (s : State) : (s.finish e).rcode = s.rcode := rfl
@[simp] theorem State.finish_inbuf (e : Ending) (s : State) : (s.finish e).inbuf = s.inbuf := rfl
@[simp] theorem State.finish_outbuf (e : Ending) (s : State) : (s.finish e).outbuf = Memory.ofBytesFrom 0 e.bytes := rfl
@[simp] theorem State.finish_pending (e : Ending) (s : State) : (s.finish e).pending = s.pending := rfl
@[simp] theorem State.finish_response (e : Ending) (s : State) : (s.finish e).response = s.response := rfl
@[simp] theorem State.finish_inDraw (e : Ending) (s : State) : (s.finish e).inDraw = s.inDraw := rfl
@[simp] theorem State.finish_outDraw (e : Ending) (s : State) : (s.finish e).outDraw = s.outDraw + 1 := rfl
@[simp] theorem State.finish_nodeDraw (e : Ending) (s : State) : (s.finish e).nodeDraw = s.nodeDraw := rfl

/-! ### illegalCommand -/

@[simp] theorem State.illegalCommand_caps (s : State) : (s.illegalCommand).caps = s.caps := rfl
@[simp] theorem State.illegalCommand_status (s : State) : (s.illegalCommand).status = statusWord .illegalCommand := rfl
@[simp] theorem State.illegalCommand_inLen (s : State) : (s.illegalCommand).inLen = s.inLen := rfl
@[simp] theorem State.illegalCommand_outLen (s : State) : (s.illegalCommand).outLen = s.outLen := rfl
@[simp] theorem State.illegalCommand_nnodes (s : State) : (s.illegalCommand).nnodes = s.nnodes := rfl
@[simp] theorem State.illegalCommand_freq (s : State) : (s.illegalCommand).freq = s.freq := rfl
@[simp] theorem State.illegalCommand_node (s : State) : (s.illegalCommand).node = s.node := rfl
@[simp] theorem State.illegalCommand_code (s : State) : (s.illegalCommand).code = s.code := rfl
@[simp] theorem State.illegalCommand_rcode (s : State) : (s.illegalCommand).rcode = s.rcode := rfl
@[simp] theorem State.illegalCommand_inbuf (s : State) : (s.illegalCommand).inbuf = s.inbuf := rfl
@[simp] theorem State.illegalCommand_outbuf (s : State) : (s.illegalCommand).outbuf = s.outbuf := rfl
@[simp] theorem State.illegalCommand_pending (s : State) : (s.illegalCommand).pending = s.pending := rfl
@[simp] theorem State.illegalCommand_response (s : State) : (s.illegalCommand).response = s.response := rfl
@[simp] theorem State.illegalCommand_inDraw (s : State) : (s.illegalCommand).inDraw = s.inDraw := rfl
@[simp] theorem State.illegalCommand_outDraw (s : State) : (s.illegalCommand).outDraw = s.outDraw := rfl
@[simp] theorem State.illegalCommand_nodeDraw (s : State) : (s.illegalCommand).nodeDraw = s.nodeDraw := rfl

/-! ### respond -/

@[simp] theorem State.respond_caps (r : Response) (s : State) : (s.respond r).caps = s.caps := rfl
@[simp] theorem State.respond_status (r : Response) (s : State) : (s.respond r).status = s.status := rfl
@[simp] theorem State.respond_inLen (r : Response) (s : State) : (s.respond r).inLen = s.inLen := rfl
@[simp] theorem State.respond_outLen (r : Response) (s : State) : (s.respond r).outLen = s.outLen := rfl
@[simp] theorem State.respond_nnodes (r : Response) (s : State) : (s.respond r).nnodes = s.nnodes := rfl
@[simp] theorem State.respond_freq (r : Response) (s : State) : (s.respond r).freq = s.freq := rfl
@[simp] theorem State.respond_node (r : Response) (s : State) : (s.respond r).node = s.node := rfl
@[simp] theorem State.respond_code (r : Response) (s : State) : (s.respond r).code = s.code := rfl
@[simp] theorem State.respond_rcode (r : Response) (s : State) : (s.respond r).rcode = s.rcode := rfl
@[simp] theorem State.respond_inbuf (r : Response) (s : State) : (s.respond r).inbuf = s.inbuf := rfl
@[simp] theorem State.respond_outbuf (r : Response) (s : State) : (s.respond r).outbuf = s.outbuf := rfl
@[simp] theorem State.respond_pending (r : Response) (s : State) : (s.respond r).pending = s.pending := rfl
@[simp] theorem State.respond_response (r : Response) (s : State) : (s.respond r).response = some r := rfl
@[simp] theorem State.respond_inDraw (r : Response) (s : State) : (s.respond r).inDraw = s.inDraw := rfl
@[simp] theorem State.respond_outDraw (r : Response) (s : State) : (s.respond r).outDraw = s.outDraw := rfl
@[simp] theorem State.respond_nodeDraw (r : Response) (s : State) : (s.respond r).nodeDraw = s.nodeDraw := rfl

/-! ### writeByteIn -/

@[simp] theorem State.writeByteIn_caps (i : Nat) (b : Byte) (s : State) : (s.writeByteIn i b).caps = s.caps := rfl
@[simp] theorem State.writeByteIn_status (i : Nat) (b : Byte) (s : State) : (s.writeByteIn i b).status = s.status := rfl
@[simp] theorem State.writeByteIn_inLen (i : Nat) (b : Byte) (s : State) : (s.writeByteIn i b).inLen = s.inLen := rfl
@[simp] theorem State.writeByteIn_outLen (i : Nat) (b : Byte) (s : State) : (s.writeByteIn i b).outLen = s.outLen := rfl
@[simp] theorem State.writeByteIn_nnodes (i : Nat) (b : Byte) (s : State) : (s.writeByteIn i b).nnodes = s.nnodes := rfl
@[simp] theorem State.writeByteIn_freq (i : Nat) (b : Byte) (s : State) : (s.writeByteIn i b).freq = s.freq := rfl
@[simp] theorem State.writeByteIn_node (i : Nat) (b : Byte) (s : State) : (s.writeByteIn i b).node = s.node := rfl
@[simp] theorem State.writeByteIn_code (i : Nat) (b : Byte) (s : State) : (s.writeByteIn i b).code = s.code := rfl
@[simp] theorem State.writeByteIn_rcode (i : Nat) (b : Byte) (s : State) : (s.writeByteIn i b).rcode = s.rcode := rfl
@[simp] theorem State.writeByteIn_inbuf (i : Nat) (b : Byte) (s : State) : (s.writeByteIn i b).inbuf = s.inbuf.write i b := rfl
@[simp] theorem State.writeByteIn_outbuf (i : Nat) (b : Byte) (s : State) : (s.writeByteIn i b).outbuf = s.outbuf := rfl
@[simp] theorem State.writeByteIn_pending (i : Nat) (b : Byte) (s : State) : (s.writeByteIn i b).pending = s.pending := rfl
@[simp] theorem State.writeByteIn_response (i : Nat) (b : Byte) (s : State) : (s.writeByteIn i b).response = s.response := rfl
@[simp] theorem State.writeByteIn_inDraw (i : Nat) (b : Byte) (s : State) : (s.writeByteIn i b).inDraw = s.inDraw := rfl
@[simp] theorem State.writeByteIn_outDraw (i : Nat) (b : Byte) (s : State) : (s.writeByteIn i b).outDraw = s.outDraw := rfl
@[simp] theorem State.writeByteIn_nodeDraw (i : Nat) (b : Byte) (s : State) : (s.writeByteIn i b).nodeDraw = s.nodeDraw := rfl

/-! ### countPhase -/

@[simp] theorem State.countPhase_caps (s : State) : (s.countPhase).caps = s.caps := rfl
@[simp] theorem State.countPhase_status (s : State) : (s.countPhase).status = statusWord .ok := rfl
@[simp] theorem State.countPhase_inLen (s : State) : (s.countPhase).inLen = s.inLen := rfl
@[simp] theorem State.countPhase_outLen (s : State) : (s.countPhase).outLen = s.outLen := rfl
@[simp] theorem State.countPhase_nnodes (s : State) : (s.countPhase).nnodes = s.nnodes := rfl
@[simp] theorem State.countPhase_freq (s : State) : (s.countPhase).freq = freqOf s.input := rfl
@[simp] theorem State.countPhase_node (s : State) : (s.countPhase).node = s.node := rfl
@[simp] theorem State.countPhase_code (s : State) : (s.countPhase).code = s.code := rfl
@[simp] theorem State.countPhase_rcode (s : State) : (s.countPhase).rcode = s.rcode := rfl
@[simp] theorem State.countPhase_inbuf (s : State) : (s.countPhase).inbuf = s.inbuf := rfl
@[simp] theorem State.countPhase_outbuf (s : State) : (s.countPhase).outbuf = s.outbuf := rfl
@[simp] theorem State.countPhase_pending (s : State) : (s.countPhase).pending = s.pending := rfl
@[simp] theorem State.countPhase_response (s : State) : (s.countPhase).response = s.response := rfl
@[simp] theorem State.countPhase_inDraw (s : State) : (s.countPhase).inDraw = s.inDraw := rfl
@[simp] theorem State.countPhase_outDraw (s : State) : (s.countPhase).outDraw = s.outDraw := rfl
@[simp] theorem State.countPhase_nodeDraw (s : State) : (s.countPhase).nodeDraw = s.nodeDraw := rfl

/-! ### buildPhase -/

@[simp] theorem State.buildPhase_caps (s : State) : (s.buildPhase).caps = s.caps := rfl
@[simp] theorem State.buildPhase_status (s : State) : (s.buildPhase).status = statusWord .ok := rfl
@[simp] theorem State.buildPhase_inLen (s : State) : (s.buildPhase).inLen = s.inLen := rfl
@[simp] theorem State.buildPhase_outLen (s : State) : (s.buildPhase).outLen = s.outLen := rfl
@[simp] theorem State.buildPhase_nnodes (s : State) : (s.buildPhase).nnodes = (build s.freq).length := rfl
@[simp] theorem State.buildPhase_freq (s : State) : (s.buildPhase).freq = s.freq := rfl
@[simp] theorem State.buildPhase_node (s : State) : (s.buildPhase).node = build s.freq := rfl
@[simp] theorem State.buildPhase_code (s : State) : (s.buildPhase).code = s.code := rfl
@[simp] theorem State.buildPhase_rcode (s : State) : (s.buildPhase).rcode = s.rcode := rfl
@[simp] theorem State.buildPhase_inbuf (s : State) : (s.buildPhase).inbuf = s.inbuf := rfl
@[simp] theorem State.buildPhase_outbuf (s : State) : (s.buildPhase).outbuf = s.outbuf := rfl
@[simp] theorem State.buildPhase_pending (s : State) : (s.buildPhase).pending = s.pending := rfl
@[simp] theorem State.buildPhase_response (s : State) : (s.buildPhase).response = s.response := rfl
@[simp] theorem State.buildPhase_inDraw (s : State) : (s.buildPhase).inDraw = s.inDraw := rfl
@[simp] theorem State.buildPhase_outDraw (s : State) : (s.buildPhase).outDraw = s.outDraw := rfl
@[simp] theorem State.buildPhase_nodeDraw (s : State) : (s.buildPhase).nodeDraw = s.nodeDraw + 1 := rfl

/-! ### assignPhase -/

@[simp] theorem State.assignPhase_caps (s : State) : (s.assignPhase).caps = s.caps := rfl
@[simp] theorem State.assignPhase_status (s : State) : (s.assignPhase).status = statusWord .ok := rfl
@[simp] theorem State.assignPhase_inLen (s : State) : (s.assignPhase).inLen = s.inLen := rfl
@[simp] theorem State.assignPhase_outLen (s : State) : (s.assignPhase).outLen = s.outLen := rfl
@[simp] theorem State.assignPhase_nnodes (s : State) : (s.assignPhase).nnodes = s.nnodes := rfl
@[simp] theorem State.assignPhase_freq (s : State) : (s.assignPhase).freq = s.freq := rfl
@[simp] theorem State.assignPhase_node (s : State) : (s.assignPhase).node = s.node := rfl
@[simp] theorem State.assignPhase_code (s : State) : (s.assignPhase).code = assign s.validNodes := rfl
@[simp] theorem State.assignPhase_rcode (s : State) : (s.assignPhase).rcode = inverse (assign s.validNodes) := rfl
@[simp] theorem State.assignPhase_inbuf (s : State) : (s.assignPhase).inbuf = s.inbuf := rfl
@[simp] theorem State.assignPhase_outbuf (s : State) : (s.assignPhase).outbuf = s.outbuf := rfl
@[simp] theorem State.assignPhase_pending (s : State) : (s.assignPhase).pending = s.pending := rfl
@[simp] theorem State.assignPhase_response (s : State) : (s.assignPhase).response = s.response := rfl
@[simp] theorem State.assignPhase_inDraw (s : State) : (s.assignPhase).inDraw = s.inDraw := rfl
@[simp] theorem State.assignPhase_outDraw (s : State) : (s.assignPhase).outDraw = s.outDraw := rfl
@[simp] theorem State.assignPhase_nodeDraw (s : State) : (s.assignPhase).nodeDraw = s.nodeDraw := rfl

/-! ### packPhase -/

@[simp] theorem State.packPhase_caps (s : State) : (s.packPhase).caps = s.caps := rfl
@[simp] theorem State.packPhase_status (s : State) : (s.packPhase).status = statusWord (packEnding s.caps.maxOut s.input s.code).outcome := rfl
@[simp] theorem State.packPhase_inLen (s : State) : (s.packPhase).inLen = s.inLen := rfl
@[simp] theorem State.packPhase_outLen (s : State) : (s.packPhase).outLen = (packEnding s.caps.maxOut s.input s.code).bytes.length := rfl
@[simp] theorem State.packPhase_nnodes (s : State) : (s.packPhase).nnodes = s.nnodes := rfl
@[simp] theorem State.packPhase_freq (s : State) : (s.packPhase).freq = s.freq := rfl
@[simp] theorem State.packPhase_node (s : State) : (s.packPhase).node = s.node := rfl
@[simp] theorem State.packPhase_code (s : State) : (s.packPhase).code = s.code := rfl
@[simp] theorem State.packPhase_rcode (s : State) : (s.packPhase).rcode = s.rcode := rfl
@[simp] theorem State.packPhase_inbuf (s : State) : (s.packPhase).inbuf = s.inbuf := rfl
@[simp] theorem State.packPhase_outbuf (s : State) : (s.packPhase).outbuf = Memory.ofBytesFrom 0 (packEnding s.caps.maxOut s.input s.code).bytes := rfl
@[simp] theorem State.packPhase_pending (s : State) : (s.packPhase).pending = s.pending := rfl
@[simp] theorem State.packPhase_response (s : State) : (s.packPhase).response = s.response := rfl
@[simp] theorem State.packPhase_inDraw (s : State) : (s.packPhase).inDraw = s.inDraw := rfl
@[simp] theorem State.packPhase_outDraw (s : State) : (s.packPhase).outDraw = s.outDraw + 1 := rfl
@[simp] theorem State.packPhase_nodeDraw (s : State) : (s.packPhase).nodeDraw = s.nodeDraw := rfl

/-! ### unpackPhase -/

@[simp] theorem State.unpackPhase_caps (s : State) : (s.unpackPhase).caps = s.caps := rfl
@[simp] theorem State.unpackPhase_status (s : State) : (s.unpackPhase).status = statusWord (unpackEnding s.caps.maxOut s.input s.rcode).outcome := rfl
@[simp] theorem State.unpackPhase_inLen (s : State) : (s.unpackPhase).inLen = s.inLen := rfl
@[simp] theorem State.unpackPhase_outLen (s : State) : (s.unpackPhase).outLen = (unpackEnding s.caps.maxOut s.input s.rcode).bytes.length := rfl
@[simp] theorem State.unpackPhase_nnodes (s : State) : (s.unpackPhase).nnodes = s.nnodes := rfl
@[simp] theorem State.unpackPhase_freq (s : State) : (s.unpackPhase).freq = s.freq := rfl
@[simp] theorem State.unpackPhase_node (s : State) : (s.unpackPhase).node = s.node := rfl
@[simp] theorem State.unpackPhase_code (s : State) : (s.unpackPhase).code = s.code := rfl
@[simp] theorem State.unpackPhase_rcode (s : State) : (s.unpackPhase).rcode = s.rcode := rfl
@[simp] theorem State.unpackPhase_inbuf (s : State) : (s.unpackPhase).inbuf = s.inbuf := rfl
@[simp] theorem State.unpackPhase_outbuf (s : State) : (s.unpackPhase).outbuf = Memory.ofBytesFrom 0 (unpackEnding s.caps.maxOut s.input s.rcode).bytes := rfl
@[simp] theorem State.unpackPhase_pending (s : State) : (s.unpackPhase).pending = s.pending := rfl
@[simp] theorem State.unpackPhase_response (s : State) : (s.unpackPhase).response = s.response := rfl
@[simp] theorem State.unpackPhase_inDraw (s : State) : (s.unpackPhase).inDraw = s.inDraw := rfl
@[simp] theorem State.unpackPhase_outDraw (s : State) : (s.unpackPhase).outDraw = s.outDraw + 1 := rfl
@[simp] theorem State.unpackPhase_nodeDraw (s : State) : (s.unpackPhase).nodeDraw = s.nodeDraw := rfl

/-! ### clearPhase -/

@[simp] theorem State.clearPhase_caps (s : State) : (s.clearPhase).caps = s.caps := rfl
@[simp] theorem State.clearPhase_status (s : State) : (s.clearPhase).status = statusWord .ok := rfl
@[simp] theorem State.clearPhase_inLen (s : State) : (s.clearPhase).inLen = s.inLen := rfl
@[simp] theorem State.clearPhase_outLen (s : State) : (s.clearPhase).outLen = 0 := rfl
@[simp] theorem State.clearPhase_nnodes (s : State) : (s.clearPhase).nnodes = 0 := rfl
@[simp] theorem State.clearPhase_freq (s : State) : (s.clearPhase).freq = FreqTable.zero := rfl
@[simp] theorem State.clearPhase_node (s : State) : (s.clearPhase).node = [] := rfl
@[simp] theorem State.clearPhase_code (s : State) : (s.clearPhase).code = CodeTable.empty := rfl
@[simp] theorem State.clearPhase_rcode (s : State) : (s.clearPhase).rcode = [] := rfl
@[simp] theorem State.clearPhase_inbuf (s : State) : (s.clearPhase).inbuf = s.inbuf := rfl
@[simp] theorem State.clearPhase_outbuf (s : State) : (s.clearPhase).outbuf = [] := rfl
@[simp] theorem State.clearPhase_pending (s : State) : (s.clearPhase).pending = s.pending := rfl
@[simp] theorem State.clearPhase_response (s : State) : (s.clearPhase).response = s.response := rfl
@[simp] theorem State.clearPhase_inDraw (s : State) : (s.clearPhase).inDraw = s.inDraw := rfl
@[simp] theorem State.clearPhase_outDraw (s : State) : (s.clearPhase).outDraw = s.outDraw + 1 := rfl
@[simp] theorem State.clearPhase_nodeDraw (s : State) : (s.clearPhase).nodeDraw = s.nodeDraw + 1 := rfl

/-! ### afterReset -/

@[simp] theorem State.afterReset_caps (s : State) : (s.afterReset).caps = s.caps := rfl
@[simp] theorem State.afterReset_status (s : State) : (s.afterReset).status = 0#8 := rfl
@[simp] theorem State.afterReset_inLen (s : State) : (s.afterReset).inLen = 0 := rfl
@[simp] theorem State.afterReset_outLen (s : State) : (s.afterReset).outLen = 0 := rfl
@[simp] theorem State.afterReset_nnodes (s : State) : (s.afterReset).nnodes = 0 := rfl
@[simp] theorem State.afterReset_freq (s : State) : (s.afterReset).freq = FreqTable.zero := rfl
@[simp] theorem State.afterReset_node (s : State) : (s.afterReset).node = [] := rfl
@[simp] theorem State.afterReset_code (s : State) : (s.afterReset).code = CodeTable.empty := rfl
@[simp] theorem State.afterReset_rcode (s : State) : (s.afterReset).rcode = [] := rfl
@[simp] theorem State.afterReset_inbuf (s : State) : (s.afterReset).inbuf = [] := rfl
@[simp] theorem State.afterReset_outbuf (s : State) : (s.afterReset).outbuf = [] := rfl
@[simp] theorem State.afterReset_pending (s : State) : (s.afterReset).pending = s.pending := rfl
@[simp] theorem State.afterReset_response (s : State) : (s.afterReset).response = none := rfl
@[simp] theorem State.afterReset_inDraw (s : State) : (s.afterReset).inDraw = s.inDraw + 1 := rfl
@[simp] theorem State.afterReset_outDraw (s : State) : (s.afterReset).outDraw = s.outDraw + 1 := rfl
@[simp] theorem State.afterReset_nodeDraw (s : State) : (s.afterReset).nodeDraw = s.nodeDraw + 1 := rfl

/-! ### writeInLen -/

@[simp] theorem State.writeInLen_caps (v : Nat) (s : State) : (s.writeInLen v).caps = s.caps := by
  unfold State.writeInLen; split <;> rfl
@[simp] theorem State.writeInLen_status (v : Nat) (s : State) : (s.writeInLen v).status = s.status := by
  unfold State.writeInLen; split <;> rfl
@[simp] theorem State.writeInLen_outLen (v : Nat) (s : State) : (s.writeInLen v).outLen = s.outLen := by
  unfold State.writeInLen; split <;> rfl
@[simp] theorem State.writeInLen_nnodes (v : Nat) (s : State) : (s.writeInLen v).nnodes = s.nnodes := by
  unfold State.writeInLen; split <;> rfl
@[simp] theorem State.writeInLen_freq (v : Nat) (s : State) : (s.writeInLen v).freq = s.freq := by
  unfold State.writeInLen; split <;> rfl
@[simp] theorem State.writeInLen_node (v : Nat) (s : State) : (s.writeInLen v).node = s.node := by
  unfold State.writeInLen; split <;> rfl
@[simp] theorem State.writeInLen_code (v : Nat) (s : State) : (s.writeInLen v).code = s.code := by
  unfold State.writeInLen; split <;> rfl
@[simp] theorem State.writeInLen_rcode (v : Nat) (s : State) : (s.writeInLen v).rcode = s.rcode := by
  unfold State.writeInLen; split <;> rfl
@[simp] theorem State.writeInLen_inbuf (v : Nat) (s : State) : (s.writeInLen v).inbuf = s.inbuf := by
  unfold State.writeInLen; split <;> rfl
@[simp] theorem State.writeInLen_outbuf (v : Nat) (s : State) : (s.writeInLen v).outbuf = s.outbuf := by
  unfold State.writeInLen; split <;> rfl
@[simp] theorem State.writeInLen_pending (v : Nat) (s : State) : (s.writeInLen v).pending = s.pending := by
  unfold State.writeInLen; split <;> rfl
@[simp] theorem State.writeInLen_response (v : Nat) (s : State) : (s.writeInLen v).response = s.response := by
  unfold State.writeInLen; split <;> rfl
@[simp] theorem State.writeInLen_inDraw (v : Nat) (s : State) : (s.writeInLen v).inDraw = s.inDraw := by
  unfold State.writeInLen; split <;> rfl
@[simp] theorem State.writeInLen_outDraw (v : Nat) (s : State) : (s.writeInLen v).outDraw = s.outDraw := by
  unfold State.writeInLen; split <;> rfl
@[simp] theorem State.writeInLen_nodeDraw (v : Nat) (s : State) : (s.writeInLen v).nodeDraw = s.nodeDraw := by
  unfold State.writeInLen; split <;> rfl
@[simp] theorem State.writeInLen_inLen (v : Nat) (s : State) :
    (s.writeInLen v).inLen = if v ≤ s.caps.maxIn then v else s.inLen := by
  unfold State.writeInLen; split <;> rfl

end Sys2Proof.Machine
end

