-- ==== Sys2Proof/Laws/Bits.lean ====
section
/-! SUPPORT. Bits and bytes: lengths, and the value of eight bits. -/

namespace Sys2Proof.Machine

@[simp] theorem bin8_length (v : Byte) : (bin8 v).length = 8 := rfl

@[simp] theorem zeros_length (k : Nat) : (zeros k).length = k := by simp [zeros]

@[simp] theorem bitsOfBytes_nil : bitsOfBytes [] = [] := rfl

@[simp] theorem bitsOfBytes_cons (v : Byte) (y : List Byte) : bitsOfBytes (v :: y) = bin8 v ++ bitsOfBytes y := rfl

@[simp] theorem bitsOfBytes_length (y : List Byte) : (bitsOfBytes y).length = 8 * y.length := by
  induction y with
  | nil => rfl
  | cons v rest ih => simp [ih]; omega

/-- `val` reads one more bit on the right: "`val(B ++ [b]) = 2*val(B) + b`" (R7). -/
theorem valFrom_append_singleton (acc : Nat) (b : Bits) (x : Bool) :
    valFrom acc (b ++ [x]) = 2 * valFrom acc b + x.toNat := by
  induction b generalizing acc with
  | nil => rfl
  | cons y rest ih => simp [valFrom, ih]

theorem val_append_singleton (b : Bits) (x : Bool) : val (b ++ [x]) = 2 * val b + x.toNat :=
  valFrom_append_singleton 0 b x

@[simp] theorem takeBytes_length (n : Nat) (b : Bits) : (takeBytes n b).length = n := by
  induction n generalizing b with
  | zero => rfl
  | succ m ih => simp [takeBytes, ih]

@[simp] theorem bytesOfBits_length (b : Bits) : (bytesOfBits b).length = b.length / 8 := by simp [bytesOfBits]

theorem frameBits_length (b : Bits) : (frameBits b).length = 8 + b.length + padCount b.length := by
  simp [frameBits, Nat.add_assoc]

end Sys2Proof.Machine
end

