-- ==== Sys2Proof/Laws/HostPort.lean ====
section
/-! SUPPORT. What each command, transaction and step can do, once: the later proofs cite these and never unfold `exec`,
`hostWrite` or `step`. -/

namespace Sys2Proof.Machine

/-! ### Each command is one state update -/

@[simp] theorem exec_clear (s : State) : exec .clear s = .next s.clearPhase := rfl
@[simp] theorem exec_count (s : State) : exec .count s = .next s.countPhase := rfl
@[simp] theorem exec_build (s : State) : exec .build s = .next s.buildPhase := rfl
@[simp] theorem exec_assign (s : State) : exec .assign s = .next s.assignPhase := rfl
@[simp] theorem exec_pack (s : State) : exec .pack s = .next s.packPhase := rfl
@[simp] theorem exec_unpack (s : State) : exec .unpack s = .next s.unpackPhase := rfl
@[simp] theorem exec_decode (s : State) : exec .decode s = .next s.unpackPhase := rfl
@[simp] theorem exec_encode (s : State) :
    exec .encode s = .next s.countPhase.buildPhase.assignPhase.packPhase := rfl

/-! ### The outcome a command leaves -/

@[simp] theorem statusWord_ecode (e : Ecode) : (statusWord e).extractLsb' 0 4 = e.code := by cases e <;> decide

@[simp] theorem statusWord_high (e : Ecode) : (statusWord e).extractLsb' 4 4 = 0#4 := by cases e <;> decide

/-- An ending that is a success has not been cut to nothing, and an error delivers nothing. -/
theorem Ending.ofResult_cases (maxOut : Nat) (bytes : List Byte) :
    (bytes.length ≤ maxOut ∧ Ending.ofResult maxOut bytes = ⟨.ok, bytes⟩) ∨
    (maxOut < bytes.length ∧ Ending.ofResult maxOut bytes = ⟨.outputOverflow, []⟩) := by
  unfold Ending.ofResult
  split
  · exact .inr ⟨by omega, rfl⟩
  · exact .inl ⟨by omega, rfl⟩

/-! ### The step -/

theorem step_of_pending_nil {s : State} (h : s.pending = []) : step s = .next s := by simp [step, h]

theorem step_of_pending_cons {s : State} {e : Event} {rest : List Event} (h : s.pending = e :: rest) :
    step s = takeEvent e { s with pending := rest } := by simp [step, h]

/-- Issuing an event takes exactly that event. -/
@[simp] theorem issue_eq (e : Event) (s : State) : issue e s = takeEvent e s := rfl

/-- A host read answers a next state only in one way. -/
theorem hostRead_next {a : Addr} {s t : State} (h : hostRead a s = .next t) :
    ∃ e, resolve s.caps a = some e ∧ t = s.respond (.data (s.readElement e)) := by
  unfold hostRead at h
  split at h
  · exact ⟨_, ‹_›, by simpa using h.symm⟩
  · cases h

/-- A write of a command word is that command, with its outcome as the response. -/
theorem commandWrite_of_decode {w : Byte} {i : Instr} {s t : State} (hd : decode w = .ok i)
    (he : exec i s = .next t) : commandWrite w s = .next (t.respond (.outcome t.ecode)) := by
  simp [commandWrite, hd, he, respondOutcome]

/-- A write to CMD answers a next state whatever the word: a command, or the report of an illegal word. -/
theorem commandWrite_completes (w : Byte) (s : State) : ∃ t, commandWrite w s = .next t := by
  unfold commandWrite
  split
  · rename_i i _; cases i <;> exact ⟨_, rfl⟩
  · exact ⟨_, rfl⟩

/-- All a host write can do when it answers a next state: run a command or report an illegal word, store a byte of
INBUF, set IN_LEN, or nothing. -/
theorem hostWrite_next {a : Addr} {v : Nat} {s t : State} (h : hostWrite a v s = .next t) :
    (resolve s.caps a = some .cmd ∧ v < 256 ∧ commandWrite (BitVec.ofNat 8 v) s = .next t) ∨
    (∃ i, resolve s.caps a = some (.inbuf i) ∧ v < 256 ∧
      t = (s.writeByteIn i (BitVec.ofNat 8 v)).respond .written) ∨
    (resolve s.caps a = some .inLen ∧ t = (s.writeInLen v).respond .written) ∨
    t = s.respond .written := by
  unfold hostWrite at h
  split at h
  · cases h
  · split at h
    · exact .inl ⟨‹_›, ‹_›, h⟩
    · cases h
  · split at h
    · exact .inr (.inl ⟨_, ‹_›, ‹_›, by simpa using h.symm⟩)
    · cases h
  · exact .inr (.inr (.inl ⟨‹_›, by simpa using h.symm⟩))
  all_goals exact .inr (.inr (.inr (by simpa using h.symm)))

/-- An INBUF element has an index below MAX_IN. -/
theorem resolve_inbuf {c : Capacities} {a : Addr} {i : Nat} (h : resolve c a = some (.inbuf i)) : i < c.maxIn := by
  unfold resolve at h
  split at h <;> (try split at h) <;> simp_all

/-! ### Flags and free values -/

@[simp] theorem State.setEcode_ecode (e : Ecode) (s : State) : (s.setEcode e).ecode = e.code := by
  simp [State.ecode]

theorem bitWidth_spec (m : Nat) : m < 2 ^ bitWidth m := by
  unfold bitWidth
  split
  · subst m; simp
  · exact Nat.lt_log2_self

end Sys2Proof.Machine
end

