-- ==== Sys2Proof/Laws/Memory.lean ====
section
/-! SUPPORT. The laws of the buffers: a read after a write, and that every operation keeps the canonical form. -/

namespace Sys2Proof.Machine

@[simp] theorem Memory.read?_nil (a : Nat) : Memory.read? [] a = none := rfl

@[simp] theorem Memory.read?_cons (b a : Nat) (v : Byte) (m : List Host.Cell) :
    Memory.read? ((b, v) :: m) a = if a = b then some v else Memory.read? m a := rfl

@[simp] theorem Memory.read?_write_same (m : Memory) (a : Nat) (v : Byte) : (m.write a v).read? a = some v := by
  induction m with
  | nil => simp [Memory.write]
  | cons c rest ih =>
    obtain ⟨b, u⟩ := c
    simp only [Memory.write]
    split
    · simp
    · split
      · simp
      · rename_i h; simp [h, ih]

theorem Memory.read?_write_of_ne (m : Memory) {a b : Nat} (v : Byte) (h : b ≠ a) :
    (m.write a v).read? b = m.read? b := by
  induction m with
  | nil => simp [Memory.write, h]
  | cons c rest ih =>
    obtain ⟨d, u⟩ := c
    simp only [Memory.write]
    split
    · simp [h]
    · split
      · rename_i h'; subst h'; simp [h]
      · simp [ih]

theorem Memory.wf_nil : Memory.wf [] = true := rfl

theorem Memory.wf_cons {b : Nat} {v : Byte} {m : List Host.Cell} :
    Memory.wf ((b, v) :: m) = true ↔ (∀ c ∈ m, b < c.1) ∧ Memory.wf m = true := by
  simp [Memory.wf]

theorem Memory.mem_write {m : Memory} {a : Nat} {v : Byte} {c : Host.Cell} (h : c ∈ m.write a v) :
    c = (a, v) ∨ c ∈ m := by
  induction m with
  | nil => simpa [Memory.write] using h
  | cons d rest ih =>
    obtain ⟨b, u⟩ := d
    simp only [Memory.write] at h
    split at h
    · simpa using h
    · split at h
      · rcases List.mem_cons.1 h with h | h
        · exact .inl h
        · exact .inr (List.mem_cons_of_mem _ h)
      · rcases List.mem_cons.1 h with h | h
        · exact .inr (h ▸ List.mem_cons_self)
        · exact (ih h).imp_right (List.mem_cons_of_mem _)

/-- A write keeps the canonical form. -/
theorem Memory.wf_write {m : Memory} (a : Nat) (v : Byte) (h : m.wf = true) : (m.write a v).wf = true := by
  induction m with
  | nil => rfl
  | cons d rest ih =>
    obtain ⟨b, u⟩ := d
    obtain ⟨hlt, hrest⟩ := Memory.wf_cons.1 h
    simp only [Memory.write]
    split
    · rename_i hab
      refine Memory.wf_cons.2 ⟨fun c hc => ?_, h⟩
      rcases List.mem_cons.1 hc with hc | hc
      · simpa [hc] using hab
      · exact hab.trans (hlt c hc)
    · split
      · rename_i hab; subst hab; exact Memory.wf_cons.2 ⟨hlt, hrest⟩
      · refine Memory.wf_cons.2 ⟨fun c hc => ?_, ih hrest⟩
        rcases Memory.mem_write hc with hc | hc
        · subst hc; simp only; omega
        · exact hlt c hc

theorem Memory.le_of_mem_ofBytesFrom {a : Nat} {bytes : List Byte} {c : Host.Cell}
    (h : c ∈ Memory.ofBytesFrom a bytes) : a ≤ c.1 := by
  induction bytes generalizing a with
  | nil => simp [Memory.ofBytesFrom] at h
  | cons v rest ih =>
    rcases List.mem_cons.1 h with h | h
    · simp [h]
    · have := ih h; omega

/-- A buffer made of a byte sequence is in canonical form. -/
theorem Memory.wf_ofBytesFrom (a : Nat) (bytes : List Byte) : (Memory.ofBytesFrom a bytes).wf = true := by
  induction bytes generalizing a with
  | nil => rfl
  | cons v rest ih =>
    exact Memory.wf_cons.2 ⟨fun c hc => by have := Memory.le_of_mem_ofBytesFrom hc; omega, ih (a + 1)⟩

/-- What a buffer made of a byte sequence holds. -/
theorem Memory.read?_ofBytesFrom (a : Nat) (bytes : List Byte) (i : Nat) :
    (Memory.ofBytesFrom a bytes).read? i = if i < a then none else bytes[i - a]? := by
  induction bytes generalizing a with
  | nil => simp [Memory.ofBytesFrom]
  | cons v rest ih =>
    simp only [Memory.ofBytesFrom, Memory.read?_cons, ih]
    rcases Nat.lt_trichotomy i a with h | h | h
    · simp [h, h.ne, Nat.lt_succ_of_lt h]
    · simp [h]
    · have h1 : ¬ i < a + 1 := by omega
      have h2 : ¬ i < a := by omega
      have h3 : i - a = (i - (a + 1)) + 1 := by omega
      simp [h.ne', h1, h2, h3]

/-- The output sequence after a delivery is the bytes delivered. -/
@[simp] theorem State.setOutput_output (bytes : List Byte) (s : State) : (s.setOutput bytes).output = bytes := by
  apply List.ext_getElem
  · simp [State.output]
  · intro i h _
    have hi : i < bytes.length := by simpa [State.output] using h
    simp [State.output, State.byteOut, Memory.read?_ofBytesFrom, hi]

/-- A byte of INBUF just written reads back; every other byte of INBUF is as before. -/
theorem State.byteIn_writeByteIn (i j : Nat) (b : Byte) (s : State) :
    (s.writeByteIn i b).byteIn j = if j = i then b else s.byteIn j := by
  by_cases h : j = i
  · subst h; simp [State.byteIn]
  · simp [State.byteIn, Memory.read?_write_of_ne _ _ h, h]

/-- The input sequence has IN_LEN bytes. -/
@[simp] theorem State.input_length (s : State) : s.input.length = s.inLen := by simp [State.input]

end Sys2Proof.Machine
end

