-- ==== Sys2Proof/Laws/PerInstr.lean ====
section
/-! SUPPORT. A law of each command as syntax, one lemma for each constructor: it is well-formed, and its word has RSV 0
and an OPC of 1 to 8 (rule R47). -/

namespace Sys2Proof.Laws.WordForm

/-- The command is well-formed and its word is of format C8 (R47). -/
def Statement (i : Instr) : Prop :=
  i.wf = true ∧ rsvField (encode i) = 0#4 ∧ 1 ≤ (opcField (encode i)).toNat ∧ (opcField (encode i)).toNat ≤ 8

theorem clear : Statement .clear := by unfold Statement; decide
theorem count : Statement .count := by unfold Statement; decide
theorem build : Statement .build := by unfold Statement; decide
theorem assign : Statement .assign := by unfold Statement; decide
theorem pack : Statement .pack := by unfold Statement; decide
theorem unpack : Statement .unpack := by unfold Statement; decide
theorem encode : Statement .encode := by unfold Statement; decide
theorem decode : Statement .decode := by unfold Statement; decide

end Sys2Proof.Laws.WordForm
end

