-- ==== Sys2Proof/Laws/Queue.lean ====
section
/-! SUPPORT. The priority queue of BUILD: extracting the least element takes it out and leaves the rest. -/

namespace Sys2Proof.Machine

theorem QueueItem.before_iff (a b : QueueItem) :
    a.before b = true ↔ a.freq < b.freq ∨ (a.freq = b.freq ∧ a.idx < b.idx) := by
  simp [QueueItem.before]

theorem QueueItem.not_before_trans {a b c : QueueItem} (hab : b.before a = false) (hbc : c.before b = false) :
    c.before a = false := by
  rw [Bool.eq_false_iff, Ne, QueueItem.before_iff] at *
  omega

theorem QueueItem.not_before_self (a : QueueItem) : a.before a = false := by
  rw [Bool.eq_false_iff, Ne, QueueItem.before_iff]
  omega

theorem QueueItem.not_before_of_before {a b : QueueItem} (h : a.before b = true) : b.before a = false := by
  rw [Bool.eq_false_iff, Ne]
  rw [QueueItem.before_iff] at *
  omega

@[simp] theorem extractMin_eq_none {q : List QueueItem} : extractMin q = none ↔ q = [] := by
  cases q with
  | nil => simp [extractMin]
  | cons x rest =>
    simp only [extractMin]
    split
    · simp
    · split <;> simp

/-- All that extracting the least element does: it and the rest are the queue, and nothing of the queue comes before
it. -/
theorem extractMin_spec {q : List QueueItem} {m : QueueItem} {rest : List QueueItem}
    (h : extractMin q = some (m, rest)) : q.Perm (m :: rest) ∧ ∀ x ∈ q, x.before m = false := by
  induction q generalizing m rest with
  | nil => simp [extractMin] at h
  | cons x xs ih =>
    simp only [extractMin] at h
    split at h
    · rename_i hn
      obtain rfl := extractMin_eq_none.1 hn
      obtain ⟨rfl, rfl⟩ : x = m ∧ [] = rest := by simpa using h
      exact ⟨.refl _, by simp [QueueItem.not_before_self]⟩
    · rename_i m' others hm
      obtain ⟨hp, hmin⟩ := ih hm
      split at h
      · rename_i hb
        obtain ⟨rfl, rfl⟩ : x = m ∧ xs = rest := by simpa using h
        refine ⟨.refl _, fun y hy => ?_⟩
        rcases List.mem_cons.1 hy with rfl | hy
        · exact QueueItem.not_before_self _
        · exact QueueItem.not_before_trans (QueueItem.not_before_of_before hb) (hmin y hy)
      · rename_i hb
        obtain ⟨rfl, rfl⟩ : m' = m ∧ x :: others = rest := by simpa using h
        refine ⟨(hp.cons x).trans (.swap _ _ _), fun y hy => ?_⟩
        rcases List.mem_cons.1 hy with rfl | hy
        · simpa using hb
        · exact hmin y hy

theorem extractMin_length {q : List QueueItem} {m : QueueItem} {rest : List QueueItem}
    (h : extractMin q = some (m, rest)) : q.length = rest.length + 1 := by
  simpa using (extractMin_spec h).1.length_eq

end Sys2Proof.Machine
end

