-- ==== Sys2Proof/Laws/Tables.lean ====
section
/-! SUPPORT. The tables entry by entry: what a table made by `tableOf`, `setCode` or the reset state holds, and the
lookups in the reverse table. -/

namespace Sys2Proof.Machine

@[simp] theorem allBytes_length : allBytes.length = 256 := by simp [allBytes]

theorem allBytes_getElem (b : Byte) : allBytes[b.toNat]'(by simpa using b.isLt) = b := by simp [allBytes]

theorem mem_allBytes (b : Byte) : b ∈ allBytes := by
  rw [← allBytes_getElem b]; exact List.getElem_mem _

theorem allBytes_nodup : allBytes.Nodup := by
  refine (List.nodup_map_iff_inj_on List.nodup_range).2 fun x hx y hy h => ?_
  have hx' := List.mem_range.1 hx
  have hy' := List.mem_range.1 hy
  have := congrArg BitVec.toNat h
  simpa [Nat.mod_eq_of_lt hx', Nat.mod_eq_of_lt hy'] using this

theorem tableOf_getElem {α : Type} (entry : Byte → α) (b : Byte) : (tableOf entry)[b.toFin] = entry b := by
  simp [tableOf, allBytes]

@[simp] theorem countAt_tableOf (entry : Byte → Nat) (b : Byte) : countAt (tableOf entry) b = entry b :=
  tableOf_getElem entry b

@[simp] theorem countAt_freqOf (data : List Byte) (b : Byte) : countAt (freqOf data) b = data.count b := by
  rw [freqOf, countAt_tableOf]

@[simp] theorem countAt_zero (b : Byte) : countAt FreqTable.zero b = 0 := by simp [countAt, FreqTable.zero]

@[simp] theorem codeAt_empty (b : Byte) : codeAt CodeTable.empty b = none := by simp [codeAt, CodeTable.empty]

@[simp] theorem codeAt_setCode (table : CodeTable) (a b : Byte) (p : Bits) :
    codeAt (setCode table a p) b = if a = b then some p else codeAt table b := by
  by_cases h : a = b
  · subst h; simp [codeAt, setCode]
  · have h' : a.toNat ≠ b.toNat := fun e => h (BitVec.eq_of_toNat_eq e)
    simp [codeAt, setCode, h, h']

@[simp] theorem rcodeAt_nil (p : Bits) : rcodeAt [] p = none := rfl

@[simp] theorem rcodeAt_cons (d p : Bits) (b : Byte) (r : List (Bits × Byte)) :
    rcodeAt ((d, b) :: r) p = if d = p then some b else rcodeAt r p := rfl

/-- A byte the reverse table gives for a bit-string stands in one of its pairs. -/
theorem mem_of_rcodeAt {r : ReverseTable} {p : Bits} {b : Byte} (h : rcodeAt r p = some b) : (p, b) ∈ r := by
  induction r with
  | nil => simp at h
  | cons e rest ih =>
    obtain ⟨d, c⟩ := e
    simp only [rcodeAt_cons] at h
    split at h
    · rename_i hd; simp_all
    · exact List.mem_cons_of_mem _ (ih h)

/-- A table is the list of its entries in the order of the byte values. -/
theorem toList_eq_map {α : Type} (v : Vector α 256) : v.toList = allBytes.map fun b => v[b.toFin] := by
  apply List.ext_getElem
  · simp
  · intro i h _
    have hi : i < 256 := by simpa using h
    simp [allBytes, Nat.mod_eq_of_lt hi]

theorem toList_eq_map_countAt (f : FreqTable) : f.toList = allBytes.map (countAt f) := toList_eq_map f

theorem toList_eq_map_codeAt (table : CodeTable) : table.toList = allBytes.map (codeAt table) := toList_eq_map table

theorem totalCount_eq (f : FreqTable) : totalCount f = (allBytes.map (countAt f)).sum := by
  rw [totalCount, toList_eq_map_countAt]

theorem presentCount_eq (f : FreqTable) : presentCount f = allBytes.countP fun b => decide (countAt f b > 0) := by
  rw [presentCount, toList_eq_map_countAt, List.countP_map]; rfl

theorem totalBits_eq (f : FreqTable) (table : CodeTable) :
    totalBits f table = (allBytes.map fun b => countAt f b * ((codeAt table b).getD []).length).sum := by
  rw [totalBits, toList_eq_map_countAt, toList_eq_map_codeAt, List.zipWith_map, List.zipWith_self]

end Sys2Proof.Machine
end

