-- ==== Sys2Proof/Tests/Slice0.lean ====
section
/-! SUPPORT. The model's own tests: well-formedness refuses each ill-formed term, each command word decodes as the spec
encodes it, one step of each command gives the spec's own vector (spec/95_test_vectors.md, named at each test); and for
each statement that has hypotheses a concrete input that meets them together. -/

namespace Sys2Proof.Tests
open Sys2Proof.Machine

/-! ### Small states -/

/-- A block of the given capacities right after the host has loaded some bytes. -/
def loaded (c : Capacities) (bytes : List Byte) : State :=
  { State.resetWith c with inLen := bytes.length, inbuf := Memory.ofBytesFrom 0 bytes }

/-- A test of the state a command leaves. -/
def leaves (o : Host.Outcome State Fault Refusal) (p : State → Bool) : Bool :=
  match o with
  | .next t => p t
  | .fault _ => false
  | .refused _ => false

def abracadabra : List Byte :=
  [0x61#8, 0x62#8, 0x72#8, 0x61#8, 0x63#8, 0x61#8, 0x64#8, 0x61#8, 0x62#8, 0x72#8, 0x61#8]

/-- The tree of vector V7 (counts a:3, b:1). -/
def twoNodes : List Node := [.leaf 0x61#8 3, .leaf 0x62#8 1, .internal 1 0 4]

/-- The code table of V7: a = "1", b = "0". -/
def twoCodes : CodeTable := setCode (setCode CodeTable.empty 0x61#8 [true]) 0x62#8 [false]

def twoReverse : ReverseTable := [([false], 0x62#8), ([true], 0x61#8)]

/-- The code table of V14: a = "0", c = "100", d = "101", b = "110", r = "111"; and its inverse. -/
def fiveCodes : CodeTable :=
  setCode (setCode (setCode (setCode (setCode CodeTable.empty 0x61#8 [false]) 0x63#8 [true, false, false])
    0x64#8 [true, false, true]) 0x62#8 [true, true, false]) 0x72#8 [true, true, true]

def fiveReverse : ReverseTable :=
  [([false], 0x61#8), ([true, false, false], 0x63#8), ([true, false, true], 0x64#8), ([true, true, false], 0x62#8),
   ([true, true, true], 0x72#8)]

/-- The block after ENCODE of aaab (V57), with the given capacities. -/
def demoOf (c : Capacities) : State :=
  { loaded c [0x61#8, 0x61#8, 0x61#8, 0x62#8] with
    freq := freqOf [0x61#8, 0x61#8, 0x61#8, 0x62#8], node := twoNodes, nnodes := 3, code := twoCodes,
    rcode := twoReverse, outLen := 2, outbuf := [(0, 0x04#8), (1, 0xE0#8)] }

def demo : State := demoOf ⟨8, 8⟩

/-- The block of `demo` with other input. -/
def demoWith (bytes : List Byte) : State :=
  { demo with inLen := bytes.length, inbuf := Memory.ofBytesFrom 0 bytes }

/-! ### Well-formedness: an ill-formed term for each check -/

theorem test_wf_refuses_register_five : (Addr.mk 0 5).wf ⟨4, 4⟩ = false := by decide
theorem test_wf_refuses_inbuf_at_capacity : (Addr.mk 1 4).wf ⟨4, 8⟩ = false := by decide
theorem test_wf_refuses_outbuf_at_capacity : (Addr.mk 2 4).wf ⟨8, 4⟩ = false := by decide
theorem test_wf_refuses_freq_256 : (Addr.mk 3 256).wf ⟨4, 4⟩ = false := by decide
theorem test_wf_refuses_node_511 : (Addr.mk 4 511).wf ⟨4, 4⟩ = false := by decide
theorem test_wf_refuses_code_256 : (Addr.mk 5 256).wf ⟨4, 4⟩ = false := by decide
theorem test_wf_refuses_space_six : (Addr.mk 6 0).wf ⟨4, 4⟩ = false := by decide
theorem test_wf_refuses_wide_command : (Txn.write ⟨0, 0⟩ 256).wf ⟨4, 4⟩ = false := by decide
theorem test_wf_refuses_wide_byte : (Txn.write ⟨1, 0⟩ 256).wf ⟨4, 4⟩ = false := by decide
theorem test_wf_refuses_read_out_of_range : (Event.txn (.read ⟨1, 4⟩)).wf ⟨4, 4⟩ = false := by decide
theorem test_wf_refuses_long_load : (ScriptLine.load [1#8, 2#8]).wf ⟨1, 4⟩ = false := by decide
theorem test_wf_accepts_last_elements :
    ((Addr.mk 0 4).wf ⟨4, 4⟩ && (Addr.mk 1 3).wf ⟨4, 4⟩ && (Addr.mk 4 510).wf ⟨4, 4⟩) = true := by decide

/-! ### Decoding: words written out from R45 and R47 -/

theorem test_table_word_encode : decodeTableWord 8 0b00000111 = some .encode := by decide
theorem test_table_word_zero : decodeTableWord 8 0 = none := by decide
theorem test_decode_opcode_nine : decode 0b00001001#8 = .error (.opcodeUnassigned 9#4) := by decide
/-- V65: OPC 7 with RSV 1, and OPC 7 with RSV 8. -/
theorem test_decode_reserved_bits :
    decode 0b00010111#8 = .error (.reservedBitsSet 1#4) ∧ decode 0b10000111#8 = .error (.reservedBitsSet 8#4) := by
  decide

/-! ### One step of each command, against the vectors of 95_test_vectors.md -/

/-- V62: CLEAR empties the tables and keeps the input. -/
theorem test_clear : leaves (exec .clear demo) (fun t =>
    codeAt t.code 0x61#8 == none && t.rcode == [] && countAt t.freq 0x61#8 == 0 && t.nnodes == 0 && t.outLen == 0 &&
    t.inLen == 4 && t.input == [0x61#8, 0x61#8, 0x61#8, 0x62#8]) = true := by decide +kernel

/-- V3: earlier counts are replaced, not added to. -/
theorem test_count_replaces : leaves (exec .count { loaded ⟨16, 16⟩ abracadabra with freq := demo.freq }) (fun t =>
    countAt t.freq 0x61#8 == 5 && countAt t.freq 0x62#8 == 2 && countAt t.freq 0x72#8 == 2 &&
    totalCount t.freq == 11) = true := by decide +kernel

/-- V4: the extreme byte values. -/
theorem test_count_extremes : leaves (exec .count (loaded ⟨4, 4⟩ [0x00#8, 0xFF#8, 0x00#8])) (fun t =>
    countAt t.freq 0x00#8 == 2 && countAt t.freq 0xFF#8 == 1) = true := by decide +kernel

/-- V11: a tie at frequency 2 between leaf 0 and node 3 is taken by the lower index. -/
theorem test_build_tie : leaves (exec .build
    { State.resetWith ⟨4, 4⟩ with freq := freqOf [0x61#8, 0x61#8, 0x62#8, 0x63#8] }) (fun t =>
    t.node == [.leaf 0x61#8 2, .leaf 0x62#8 1, .leaf 0x63#8 1, .internal 1 2 2, .internal 0 3 4] &&
    t.nnodes == 5) = true := by decide +kernel

/-- V14: five leaves. -/
theorem test_build_five_leaves : leaves (exec .build
    { State.resetWith ⟨16, 16⟩ with freq := freqOf abracadabra }) (fun t =>
    t.node.drop 5 == [.internal 2 3 2, .internal 1 4 4, .internal 5 6 6, .internal 0 7 11]) = true := by
  decide +kernel

/-- V7, on a block whose tables hold another code: both codes of the tree, and no stale one (R74). -/
theorem test_assign_replaces : leaves (exec .assign { demo with code := fiveCodes, rcode := fiveReverse }) (fun t =>
    codeAt t.code 0x61#8 == some [true] && codeAt t.code 0x62#8 == some [false] && codeAt t.code 0x72#8 == none &&
    rcodeAt t.rcode [false] == some 0x62#8 && rcodeAt t.rcode [true, true, true] == none) = true := by decide +kernel

/-- V6: the single leaf's code is "0". -/
theorem test_assign_single_leaf : leaves (exec .assign
    { State.resetWith ⟨4, 4⟩ with node := [.leaf 0x61#8 1], nnodes := 1 }) (fun t =>
    codeAt t.code 0x61#8 == some [false] && t.rcode == [([false], 0x61#8)]) = true := by decide +kernel

/-- V21 and R89: 23 content bits, one padding bit. -/
theorem test_pack : leaves (exec .pack { loaded ⟨16, 16⟩ abracadabra with code := fiveCodes }) (fun t =>
    t.output == [0x01#8, 0x6E#8, 0x8A#8, 0xDC#8] && t.ecode == 0#4) = true := by decide +kernel

/-- V22 with MAX_OUT 0: MissingCode comes before OutputOverflow. -/
theorem test_pack_missing_code : leaves (exec .pack { loaded ⟨16, 0⟩ [0x61#8, 0x62#8, 0x7A#8] with code := fiveCodes })
    (fun t => t.ecode == 3#4 && t.outLen == 0 && codeAt t.code 0x61#8 == some [false]) = true := by decide +kernel

/-- V43: content bits reach into the byte that holds padding. -/
theorem test_unpack : leaves (exec .unpack { loaded ⟨16, 16⟩ [0x07#8, 0x80#8, 0x00#8] with rcode := fiveReverse })
    (fun t => t.output == [0x63#8, 0x61#8, 0x61#8, 0x61#8, 0x61#8, 0x61#8, 0x61#8] && t.ecode == 0#4) = true := by
  decide +kernel

/-- V40: three bytes resolve, a bit is left over, nothing is delivered. -/
theorem test_unpack_leftover : leaves (exec .unpack { loaded ⟨16, 16⟩ [0x00#8, 0x6F#8] with rcode := fiveReverse })
    (fun t => t.ecode == 1#4 && t.outLen == 0 && t.outbuf == []) = true := by decide +kernel

/-- V57. -/
theorem test_encode : leaves (exec .encode (loaded ⟨8, 8⟩ [0x61#8, 0x61#8, 0x61#8, 0x62#8])) (fun t =>
    t.output == [0x04#8, 0xE0#8] && t.node == twoNodes && codeAt t.code 0x61#8 == some [true] &&
    t.ecode == 0#4) = true := by decide +kernel

/-- V60: the tables of the failed encode replace the earlier ones. -/
theorem test_encode_overflow : leaves (exec .encode { demoOf ⟨16, 3⟩ with inLen := 11, inbuf := Memory.ofBytesFrom 0 abracadabra })
    (fun t => t.ecode == 4#4 && t.outLen == 0 && t.nnodes == 9 && codeAt t.code 0x61#8 == some [false]) = true := by
  decide +kernel

/-- V47 and R101: a stale table gives wrong data without an error. -/
theorem test_decode_stale_table : leaves (exec .decode { loaded ⟨8, 8⟩ [0x04#8, 0xE0#8] with
    rcode := [([true], 0x62#8), ([false], 0x61#8)] }) (fun t =>
    t.output == [0x62#8, 0x62#8, 0x62#8, 0x61#8] && t.ecode == 0#4) = true := by decide +kernel

/-- V53: MalformedStream comes before OutputOverflow. -/
theorem test_decode_malformed_first : leaves (exec .decode { loaded ⟨8, 0⟩ [0x09#8, 0x00#8] with rcode := fiveReverse })
    (fun t => t.ecode == 1#4) = true := by decide +kernel

/-- V64: an illegal word changes ECODE only. -/
theorem test_illegal_word : leaves (step (demo.withFetchWord 8 0x00)) (fun t =>
    t.ecode == 2#4 && t.output == [0x04#8, 0xE0#8] && t.response == some (.outcome 2#4)) = true := by decide +kernel

/-- A step runs the command word issued, from the reset state (R141). -/
theorem test_step_from_reset : leaves (step ((State.resetWith ⟨8, 8⟩).withFetchWord 8 0x07)) (fun t =>
    t.output == [0x08#8, 0x00#8] && t.pending == []) = true := by decide +kernel

/-- V68: IN_LEN refuses MAX_IN + 1. -/
theorem test_in_len_above_capacity : leaves (hostWrite ⟨0, 2⟩ 9 demo) (fun t => t.inLen == 4) = true := by
  decide +kernel

/-- V69: a write to a read-only element changes nothing. -/
theorem test_read_only_write : leaves (hostWrite ⟨5, 0x61⟩ 0 demo) (fun t => codeAt t.code 0x61#8 == some [true]) = true := by
  decide +kernel

/-- R58's example and the vector after V15: the code "110". -/
theorem test_code_entry : (codeEntry (some [true, true, false])).toNat = 3 * 2 ^ 255 + 6 * 2 ^ 252 := by decide +kernel

/-- The vector after V15: CNT_W is 11 for MAX_IN 2047, and the entries of `NODE[0]` and `NODE[2]`. -/
theorem test_node_entry : Capacities.cntW ⟨2047, 0⟩ = 11 ∧
    (nodeEntry 11 (.leaf 0x61#8 3)).toNat = 2 ^ 37 + 0x61 * 2 ^ 29 + 3 ∧
    (nodeEntry 11 (.internal 1 0 4)).toNat = 2 ^ 20 + 4 := by decide +kernel

/-! ### The demonstration state is sound -/

theorem twoNodes_strict : StrictTree twoNodes 2 where
  length_eq := rfl
  pos := by decide
  le_nsym := by decide
  leaves i hi := by
    interval_cases i
    · exact ⟨_, _, rfl, by decide⟩
    · exact ⟨_, _, rfl, by decide⟩
  ascending i j a b f g hij hj ha hb := by
    obtain ⟨rfl, rfl⟩ : i = 0 ∧ j = 1 := by omega
    simp only [twoNodes, List.getElem?_cons_zero, List.getElem?_cons_succ, Option.some.injEq, Node.leaf.injEq] at ha hb
    rw [← ha.1, ← hb.1]; decide
  internals i h2 h3 := by
    obtain rfl : i = 2 := by omega
    exact ⟨1, 0, by decide, by decide, by decide, rfl⟩
  one_parent := by decide

theorem codeAt_twoCodes (b : Byte) : codeAt twoCodes b =
    if 0x62#8 = b then some [false] else if 0x61#8 = b then some [true] else none := by
  simp [twoCodes]

theorem twoCodes_cases {b : Byte} {p : Bits} (h : codeAt twoCodes b = some p) :
    (b = 0x62#8 ∧ p = [false]) ∨ (b = 0x61#8 ∧ p = [true]) := by
  rw [codeAt_twoCodes] at h
  split at h
  · cases h; exact .inl ⟨by simp_all, rfl⟩
  · split at h
    · cases h; exact .inr ⟨by simp_all, rfl⟩
    · cases h

theorem twoCodes_prefixCode : PrefixCode twoCodes where
  nonempty b p h := by rcases twoCodes_cases h with ⟨-, rfl⟩ | ⟨-, rfl⟩ <;> decide
  short b p h := by rcases twoCodes_cases h with ⟨-, rfl⟩ | ⟨-, rfl⟩ <;> decide
  prefixFree a b p q hab ha hb := by
    rcases twoCodes_cases ha with ⟨rfl, rfl⟩ | ⟨rfl, rfl⟩ <;>
      rcases twoCodes_cases hb with ⟨rfl, rfl⟩ | ⟨rfl, rfl⟩ <;> first | exact absurd rfl hab | decide

theorem twoTables_inverse : InverseTables twoCodes twoReverse := by
  intro b p
  rw [codeAt_twoCodes]
  simp only [twoReverse, rcodeAt_cons, rcodeAt_nil]
  constructor
  · intro h
    split at h
    · rename_i hp; cases h; simp [hp]
    · split at h
      · rename_i hp; cases h; simp [hp]
      · cases h
  · intro h
    split at h
    · rename_i hb; cases h; simp [hb]
    · split at h
      · rename_i hb; cases h; simp [hb]
      · cases h

theorem demo_inv : demo.Inv where
  status := by decide
  inLen_le := by decide
  outLen_le := by decide
  inbuf_wf := by decide
  inbuf_range a h := by
    have h4 : a < 4 := by simpa [demo, demoOf, loaded, Memory.read?_ofBytesFrom] using h
    show a < 8
    omega
  outbuf_wf := by decide
  outbuf_range a := by
    show (Memory.read? [(0, 0x04#8), (1, 0xE0#8)] a).isSome = true ↔ a < 2
    by_cases h0 : a = 0 <;> by_cases h1 : a = 1 <;> simp [h0, h1]
    omega
  nnodes_eq := rfl
  tree := .inr ⟨2, twoNodes_strict⟩
  counts := by decide +kernel
  nodeCounts := by decide
  codes := twoCodes_prefixCode
  tables := twoTables_inverse

/-! ### For each statement with hypotheses, an input that meets them together -/

theorem witness_IdleBlockDoesNothing : demo.pending = [] := rfl

theorem witness_ResetEventGivesTheResetState :
    ({ demo with pending := [.reset, commandEvent 0x07#8] } : State).pending = .reset :: [commandEvent 0x07#8] := rfl

/-- Both sides of the bound in the clause on PACK and ENCODE. -/
theorem witness_FirstCommandAfterReset :
    (leaves (exec .pack (State.resetWith ⟨0, 1⟩)) fun t => t.ecode == 4#4 && t.outLen == 0) = true ∧
    (leaves (exec .pack (State.resetWith ⟨0, 2⟩)) fun t => t.ecode == 0#4 && t.output == [0x08#8, 0x00#8]) = true ∧
    (leaves (exec .decode (State.resetWith ⟨0, 2⟩)) fun t => t.ecode == 1#4) = true := by decide +kernel

theorem witness_LegalWordsAreOneToEight :
    rsvField 0x17#8 ≠ 0#4 ∧ rsvField 0x08#8 = 0#4 ∧ decode 0x08#8 = .ok .decode ∧ rsvField 0x09#8 = 0#4 := by decide

theorem witness_IllegalWordChangesOnlyEcode :
    ((0x00#8).toNat = 0 ∨ 9 ≤ (0x00#8).toNat) ∧ ((0x09#8).toNat = 0 ∨ 9 ≤ (0x09#8).toNat) ∧
    ((0xFF#8).toNat = 0 ∨ 9 ≤ (0xFF#8).toNat) := by decide

theorem witness_StepRunsTheDecodedCommand :
    ({ demo with pending := [commandEvent 0x02#8, .reset] } : State).pending = commandEvent 0x02#8 :: [.reset] ∧
    decode 0x02#8 = .ok .count := ⟨rfl, by decide⟩

/-- The last elements of the spaces; a read-only element; the bound of an INBUF write. -/
theorem witness_HostAccessesHaveNoOtherEffect :
    (Addr.mk 1 7).wf demo.caps = true ∧ 7 < demo.caps.maxIn ∧
    ((Addr.mk 4 510).wf demo.caps = true ∧ (Addr.mk 4 510).space ≠ 1 ∧ Addr.mk 4 510 ≠ ⟨0, 0⟩ ∧
      Addr.mk 4 510 ≠ ⟨0, 2⟩) ∧
    ((Addr.mk 0 1).wf demo.caps = true ∧ (Addr.mk 0 1).space ≠ 1 ∧ Addr.mk 0 1 ≠ ⟨0, 0⟩ ∧
      Addr.mk 0 1 ≠ ⟨0, 2⟩) := by decide

theorem witness_InLenIsWrittenByTheHostOnly : 3 < demo.inLen ∧ 8 ≤ demo.caps.maxIn ∧ ¬ 9 ≤ demo.caps.maxIn := by decide

/-- The first and the last byte of each buffer. -/
theorem witness_RegisterReadsReturnTheRegister :
    demo.Inv ∧ (0 < demo.caps.maxIn ∧ 7 < demo.caps.maxIn ∧ ¬ 8 < demo.caps.maxIn) ∧
    (0 < demo.caps.maxOut ∧ 7 < demo.caps.maxOut ∧ ¬ 8 < demo.caps.maxOut) := ⟨demo_inv, by decide⟩

theorem witness_OutOfRangeAccessIsRefused :
    (Addr.mk 1 7).wf demo.caps = true ∧ (Addr.mk 1 8).wf demo.caps = false ∧ (Addr.mk 6 0).wf demo.caps = false := by
  decide

/-- Both sides of the value's bound, at CMD and at the last byte of INBUF; an element that takes any value. -/
theorem witness_RefusedExactlyOutOfRangeOrTooWide :
    (cmdAddr.wf demo.caps = true ∧ (Addr.mk 1 7).wf demo.caps = true ∧ (Addr.mk 1 8).wf demo.caps = false ∧
      (Addr.mk 0 2).wf demo.caps = true ∧ Addr.mk 0 2 ≠ cmdAddr ∧ (Addr.mk 0 2).space ≠ 1) ∧
    hostWrite cmdAddr 256 demo = .refused (.hostValueTooWide 0 0 256) ∧
    hostWrite ⟨1, 7⟩ 256 demo = .refused (.hostValueTooWide 1 7 256) ∧
    (leaves (hostWrite cmdAddr 255 demo) fun t => t.ecode == 2#4) = true ∧
    (leaves (hostWrite ⟨1, 7⟩ 255 demo) fun t => t.byteIn 7 == 255#8) = true :=
  ⟨by decide, rfl, rfl, by decide +kernel, by decide +kernel⟩

theorem witness_OrderlyHostNeverStops :
    ({ demo with pending := [.txn (.write ⟨1, 7⟩ 255), .reset, commandEvent 0x07#8] } : State).OrderlyHost := by
  unfold State.OrderlyHost; decide

theorem witness_TableEntriesHaveTheSpecsLayout :
    (List.replicate 255 true).length ≤ 255 ∧ 2 < 511 ∧ demo.validNodes[2]? = some (.internal 1 0 4) := by decide +kernel

theorem witness_FrequencyIsConserved : Instr.encode = .count ∨ Instr.encode = .encode := by decide

theorem witness_EachMergeTakesTheTwoLeastNodes :
    (build (freqOf [0x61#8, 0x61#8, 0x61#8, 0x62#8]))[2]? = some (.internal 1 0 4) := by decide +kernel

theorem witness_RootFrequencyIsTheTotal :
    0 < totalCount demo.freq ∧ Node.internal 1 0 4 ∈ build demo.freq := by decide +kernel

theorem witness_DegenerateTrees :
    (∀ b, countAt (State.resetWith ⟨0, 0⟩).freq b = 0) ∧
    (0 < countAt (freqOf [0x61#8]) 0x61#8 ∧ ∀ c, c ≠ 0x61#8 → countAt (freqOf [0x61#8]) c = 0) := by
  refine ⟨countAt_zero, by simp, fun c hc => ?_⟩
  simp [List.count_eq_zero, hc]

/-- A tree of two leaves, one of a single leaf, and the null tree. -/
theorem witness_AssignGivesThePaths :
    (TreeTable demo.node ∧ demo.nnodes = demo.node.length ∧ 2 ≤ demo.node.length) ∧
    TreeTable [.leaf 0x61#8 1] ∧ TreeTable [] := by
  refine ⟨⟨demo_inv.tree, rfl, by decide⟩, .inr ⟨1, ?_⟩, .inl rfl⟩
  exact {
    length_eq := rfl
    pos := by decide
    le_nsym := by decide
    leaves := fun i hi => by
      obtain rfl : i = 0 := by omega
      exact ⟨_, _, rfl, by decide⟩
    ascending := fun i j _ _ _ _ hij hj _ _ => by omega
    internals := fun i h1 h2 => by omega
    one_parent := by decide }

theorem witness_CodesArePrefixFree : TreeTable demo.node ∧ demo.nnodes = demo.node.length := ⟨demo_inv.tree, rfl⟩

theorem witness_AssignReplacesBothTables : ∀ f, Node.leaf 0x7A#8 f ∉ demo.validNodes := by
  intro f h
  have hm : Node.leaf 0x7A#8 f ∈ twoNodes := h
  simp [twoNodes] at hm

theorem witness_CodeLengthsAreBounded :
    StrictTree twoNodes 2 ∧ codeAt (assign twoNodes) 0x61#8 = some [true] := ⟨twoNodes_strict, by decide +kernel⟩

theorem witness_BitsAndBytesCorrespond : 15 < 8 * [0x04#8, 0xE0#8].length ∧ (List.replicate 16 true).length % 8 = 0 := by
  decide

theorem witness_EncodeBitsConcatenatesCodes :
    encodeBits demo.input demo.code = some [true, true, true, false] := by decide +kernel

/-- The frame of four content bits has two bytes: the smallest MAX_OUT that holds it. -/
theorem witness_PackDeliversTheFrame :
    encodeBits (demoOf ⟨8, 2⟩).input (demoOf ⟨8, 2⟩).code = some [true, true, true, false] ∧
    2 + [true, true, true, false].length / 8 ≤ (demoOf ⟨8, 2⟩).caps.maxOut := by decide +kernel

/-- The last input byte is the one without a code. -/
theorem witness_PackReportsAMissingCode : ∃ i, i < (demoWith [0x61#8, 0x7A#8]).inLen ∧
    codeAt (demoWith [0x61#8, 0x7A#8]).code ((demoWith [0x61#8, 0x7A#8]).byteIn i) = none :=
  ⟨1, by decide +kernel⟩

theorem witness_PackReportsAnOverflow :
    (encodeBits (demoOf ⟨8, 1⟩).input (demoOf ⟨8, 1⟩).code = some [true, true, true, false] ∧
      (demoOf ⟨8, 1⟩).caps.maxOut < 2 + [true, true, true, false].length / 8) ∧
    (State.resetWith ⟨8, 1⟩).caps.maxOut < 2 := by decide +kernel

theorem witness_MalformedHeadersAndContent :
    unpackBits [0x08#8, 0x00#8] = some [] ∧ unpackBits [0x09#8, 0x00#8] = none ∧ unpackBits [0x08#8] = none ∧
    unpackBits [0x00#8] = some [] ∧ unpackBits [0x01#8] = none ∧ unpackBits [] = none := by decide +kernel

/-- The frames of V41 and V42: only the padding bit differs. -/
theorem witness_PaddingBitsAreNotExamined :
    [0x6E#8, 0x8A#8, 0xDC#8].length = [0x6E#8, 0x8A#8, 0xDD#8].length ∧
    ∀ k, k < 8 * [0x6E#8, 0x8A#8, 0xDC#8].length - (0x01#8).toNat →
      (bitsOfBytes [0x6E#8, 0x8A#8, 0xDC#8])[k]? = (bitsOfBytes [0x6E#8, 0x8A#8, 0xDD#8])[k]? := by decide +kernel

theorem witness_UnpackDeliversTheBytes :
    unpackBits (demoWith [0x04#8, 0xE0#8]).input = some [true, true, true, false] ∧
    decodeBits [true, true, true, false] (demoWith [0x04#8, 0xE0#8]).rcode =
      ([0x61#8, 0x61#8, 0x61#8, 0x62#8], []) ∧
    [0x61#8, 0x61#8, 0x61#8, 0x62#8].length ≤ (demoWith [0x04#8, 0xE0#8]).caps.maxOut := by decide +kernel

/-- One witness for a malformed header, one for leftover bits (V39), one for a result that does not fit. -/
theorem witness_UnpackReportsItsErrors :
    unpackBits (demoWith [0x09#8, 0x00#8]).input = none ∧
    (unpackBits [0x06#8, 0x80#8] = some [true, false] ∧ (decodeBits [true, false] fiveReverse).2 ≠ []) ∧
    (unpackBits [0x04#8, 0xE0#8] = some [true, true, true, false] ∧
      (decodeBits [true, true, true, false] twoReverse).2 = [] ∧
      3 < (decodeBits [true, true, true, false] twoReverse).1.length) := by decide +kernel

theorem witness_EmptyTableDecodesOnlyEmptyContent :
    (∀ p, rcodeAt (loaded ⟨8, 8⟩ [0x08#8, 0x00#8]).rcode p = none) ∧
    unpackBits (loaded ⟨8, 8⟩ [0x08#8, 0x00#8]).input = some [] ∧
    unpackBits (loaded ⟨8, 8⟩ [0x07#8, 0x80#8]).input = some [true] :=
  ⟨fun _ => rfl, by decide +kernel⟩

theorem witness_DecodingInvertsEncoding : PrefixCode twoCodes ∧ InverseTables twoCodes twoReverse ∧
    encodeBits [0x61#8, 0x62#8] twoCodes = some [true, false] :=
  ⟨twoCodes_prefixCode, twoTables_inverse, by decide +kernel⟩

/-- The capacity that just holds the frame of aaab, and the one just below it. -/
theorem witness_EncodeDeliversTheFrame :
    2 + contentLength (demoOf ⟨8, 2⟩).input / 8 ≤ (demoOf ⟨8, 2⟩).caps.maxOut := by decide +kernel

theorem witness_EncodeOverflowKeepsTheNewTables :
    (demoOf ⟨8, 1⟩).caps.maxOut < 2 + contentLength (demoOf ⟨8, 1⟩).input / 8 := by decide +kernel

theorem witness_OneByteValueRepeated :
    1 ≤ (loaded ⟨8, 3⟩ (List.replicate 8 0x61#8)).inLen ∧
    (∀ i, i < (loaded ⟨8, 3⟩ (List.replicate 8 0x61#8)).inLen →
      (loaded ⟨8, 3⟩ (List.replicate 8 0x61#8)).byteIn i = 0x61#8) ∧
    2 + (loaded ⟨8, 3⟩ (List.replicate 8 0x61#8)).inLen / 8 ≤ (loaded ⟨8, 3⟩ (List.replicate 8 0x61#8)).caps.maxOut := by
  decide +kernel

theorem witness_PaddingIsCorrect : exec .pack demo = .next demo.packPhase ∧ demo.packPhase.ecode = 0#4 :=
  ⟨rfl, by decide +kernel⟩

theorem witness_SameCountsGiveTheSameTables :
    (loaded ⟨8, 8⟩ [0x61#8, 0x62#8]).input.Perm (loaded ⟨4, 4⟩ [0x62#8, 0x61#8]).input := by decide +kernel

theorem witness_ContentLengthIsBounded : ∀ d ∈ [0x61#8, 0x61#8], d = 0x61#8 := by decide

theorem witness_TreeCodeIsOptimal :
    2 ≤ presentCount demo.freq ∧ (∀ b, 0 < countAt demo.freq b → ∃ p, codeAt twoCodes b = some p) ∧
    (∀ a b p q, a ≠ b → codeAt twoCodes a = some p → codeAt twoCodes b = some q → ¬ p <+: q) := by
  refine ⟨by decide +kernel, fun b hb => ?_, twoCodes_prefixCode.prefixFree⟩
  have hm : b = 0x61#8 ∨ b = 0x62#8 := by
    have hc : 0 < [0x61#8, 0x61#8, 0x61#8, 0x62#8].count b := by simpa [demo, demoOf] using hb
    simpa using List.count_pos_iff.1 hc
  rcases hm with rfl | rfl
  · exact ⟨_, by simp [codeAt_twoCodes]; rfl⟩
  · exact ⟨_, by simp [codeAt_twoCodes]; rfl⟩

/-- Capacities that just allow each step of the round trip of aaab (P1). -/
theorem witness_RoundTrip :
    [0x61#8, 0x61#8, 0x61#8, 0x62#8].length ≤ (demoOf ⟨4, 4⟩).caps.maxIn ∧
    2 + contentLength [0x61#8, 0x61#8, 0x61#8, 0x62#8] / 8 ≤ (demoOf ⟨4, 4⟩).caps.maxOut ∧
    2 + contentLength [0x61#8, 0x61#8, 0x61#8, 0x62#8] / 8 ≤ (demoOf ⟨4, 4⟩).caps.maxIn ∧
    [0x61#8, 0x61#8, 0x61#8, 0x62#8].length ≤ (demoOf ⟨4, 4⟩).caps.maxOut := by decide +kernel

theorem witness_ErrorEntry :
    exec .pack (demoWith [0x7A#8]) = .next (demoWith [0x7A#8]).packPhase ∧ (demoWith [0x7A#8]).packPhase.ecode ≠ 0#4 ∧
    exec .encode (demoOf ⟨8, 1⟩) = .next (demoOf ⟨8, 1⟩).countPhase.buildPhase.assignPhase.packPhase ∧
    (demoOf ⟨8, 1⟩).countPhase.buildPhase.assignPhase.packPhase.ecode ≠ 0#4 :=
  ⟨rfl, by decide +kernel, rfl, by decide +kernel⟩

theorem witness_TableCommandsFrame : exec .count demo = .next demo.countPhase ∧ exec .build demo = .next demo.buildPhase ∧
    exec .assign demo = .next demo.assignPhase := ⟨rfl, rfl, rfl⟩

/-- Two blocks with the same operands and everything else different. -/
theorem witness_TableCommandsReadOnlyTheirOperands :
    (demo.inLen = (loaded ⟨9, 9⟩ [0x61#8, 0x61#8, 0x61#8, 0x62#8]).inLen ∧ ∀ i, i < demo.inLen →
      demo.byteIn i = (loaded ⟨9, 9⟩ [0x61#8, 0x61#8, 0x61#8, 0x62#8]).byteIn i) ∧
    demo.freq = { State.resetWith ⟨9, 9⟩ with freq := demo.freq }.freq ∧
    (demo.nnodes = { State.resetWith ⟨9, 9⟩ with nnodes := 3, node := twoNodes }.nnodes ∧ ∀ i, i < demo.nnodes →
      demo.node[i]? = { State.resetWith ⟨9, 9⟩ with nnodes := 3, node := twoNodes }.node[i]?) :=
  ⟨by decide +kernel, rfl, rfl, fun _ _ => rfl⟩

theorem witness_StreamCommandsReadOnlyTheirOperands :
    demo.caps = { demo.clearPhase with code := demo.code, rcode := demo.rcode }.caps ∧
    demo.inLen = { demo.clearPhase with code := demo.code, rcode := demo.rcode }.inLen ∧
    (∀ k, k < demo.inLen →
      demo.byteIn k = { demo.clearPhase with code := demo.code, rcode := demo.rcode }.byteIn k) ∧
    demo.code = { demo.clearPhase with code := demo.code, rcode := demo.rcode }.code ∧
    demo.rcode = { demo.clearPhase with code := demo.code, rcode := demo.rcode }.rcode :=
  ⟨rfl, rfl, fun _ _ => rfl, rfl, rfl⟩

theorem witness_LengthsStayWithinCapacity : demo.inLen ≤ demo.caps.maxIn ∧ demo.outLen ≤ demo.caps.maxOut ∧
    step demo = .next demo := ⟨by decide, by decide, rfl⟩

/-- A sound state about to run a command. -/
theorem witness_StepKeepsTheInvariant :
    ({ demo with pending := [commandEvent 0x07#8] } : State).Inv ∧
    (leaves (step { demo with pending := [commandEvent 0x07#8] }) fun t => t.ecode == 0#4) = true :=
  ⟨{ demo_inv with }, by decide +kernel⟩

end Sys2Proof.Tests
end

section
/-! PROOFS. The node table `build` makes is a strict tree (R21, R66, R69), by an invariant of the merge loop. -/

namespace Sys2Proof.Machine

/-! ### The leaves -/

theorem zipIdx_toList_eq_map {α : Type} (v : Vector α 256) :
    v.toList.zipIdx = allBytes.map fun b => (v[b.toFin], b.toNat) := by
  apply List.ext_getElem
  · simp
  · intro i h _
    have hi : i < 256 := by simpa using h
    simp [allBytes, Nat.mod_eq_of_lt hi]

theorem allBytes_ascending : allBytes.Pairwise fun a b => a.toNat < b.toNat := by
  refine List.pairwise_map.2 (List.pairwise_lt_range.imp_of_mem fun {i j} hi hj hij => ?_)
  have hi' := List.mem_range.1 hi
  have hj' := List.mem_range.1 hj
  simpa [Nat.mod_eq_of_lt hi', Nat.mod_eq_of_lt hj'] using hij

/-- The byte values with a count above 0, in ascending order. -/
def presentBytes (f : FreqTable) : List Byte := allBytes.filter fun b => decide (countAt f b > 0)

@[simp] theorem mem_presentBytes {f : FreqTable} {b : Byte} : b ∈ presentBytes f ↔ 0 < countAt f b := by
  simp [presentBytes, mem_allBytes]

theorem presentBytes_ascending (f : FreqTable) : (presentBytes f).Pairwise fun a b => a.toNat < b.toNat :=
  allBytes_ascending.filter _

theorem presentBytes_length (f : FreqTable) : (presentBytes f).length = presentCount f := by
  rw [presentCount_eq, List.countP_eq_length_filter]; rfl

theorem presentCount_le (f : FreqTable) : presentCount f ≤ 256 := by
  rw [presentCount_eq, ← allBytes_length]; exact List.countP_le_length

/-- The leaf of a byte value, with its count. -/
def leafOf (f : FreqTable) (b : Byte) : Node := .leaf b (countAt f b)

theorem leavesOf_eq_map (f : FreqTable) : leavesOf f = (presentBytes f).map (leafOf f) := by
  rw [leavesOf, zipIdx_toList_eq_map, List.filterMap_map, presentBytes, ← List.filterMap_eq_map,
    List.filterMap_filter]
  refine List.filterMap_congr fun b _ => ?_
  simp [countAt, leafOf]

@[simp] theorem leavesOf_length (f : FreqTable) : (leavesOf f).length = presentCount f := by
  rw [leavesOf_eq_map, List.length_map, presentBytes_length]

theorem leavesOf_getElem?_eq_some {f : FreqTable} {i : Nat} {n : Node} :
    (leavesOf f)[i]? = some n ↔ ∃ b, (presentBytes f)[i]? = some b ∧ leafOf f b = n := by
  rw [leavesOf_eq_map, List.getElem?_map, Option.map_eq_some_iff]

theorem leaf_mem_leavesOf {f : FreqTable} {b : Byte} {w : Nat} :
    .leaf b w ∈ leavesOf f ↔ countAt f b = w ∧ 0 < w := by
  rw [leavesOf_eq_map, List.mem_map]
  constructor
  · rintro ⟨c, hc, h⟩
    obtain ⟨rfl, rfl⟩ : c = b ∧ countAt f c = w := by simpa [leafOf] using h
    exact ⟨rfl, mem_presentBytes.1 hc⟩
  · rintro ⟨rfl, h⟩
    exact ⟨b, mem_presentBytes.2 h, rfl⟩

theorem children_of_mem_leavesOf {f : FreqTable} {n : Node} (h : n ∈ leavesOf f) : n.children = [] := by
  rw [leavesOf_eq_map, List.mem_map] at h
  obtain ⟨b, -, rfl⟩ := h
  rfl

/-! ### The frequency of an entry in a table that grows -/

theorem freqAt_append_of_lt (nodes more : List Node) {i : Nat} (h : i < nodes.length) :
    freqAt (nodes ++ more) i = freqAt nodes i := by simp only [freqAt, List.getElem?_append_left h]

theorem freqAt_append_singleton (nodes : List Node) (n : Node) :
    freqAt (nodes ++ [n]) nodes.length = n.freq := by simp [freqAt]

/-! ### The merge loop -/

/-- Two extractions in a row take two items out of the queue and leave the rest. -/
theorem extractMin_twice_perm {q q₁ q₂ : List QueueItem} {a b : QueueItem}
    (ha : extractMin q = some (a, q₁)) (hb : extractMin q₁ = some (b, q₂)) : q.Perm (a :: b :: q₂) :=
  (extractMin_spec ha).1.trans ((extractMin_spec hb).1.cons a)

/-- A property of the queue and the nodes that every merge of R66 keeps. -/
def KeptByMerges (P : List QueueItem → List Node → Prop) : Prop :=
  ∀ q q₁ q₂ nodes a b, extractMin q = some (a, q₁) → extractMin q₁ = some (b, q₂) → P q nodes →
    P (⟨nodes.length, a.freq + b.freq⟩ :: q₂) (nodes ++ [.internal a.idx b.idx (a.freq + b.freq)])

/-- The induction over the merges: what every merge keeps holds at the end, with at most one node queued. -/
theorem mergeLoop_keeps {P : List QueueItem → List Node → Prop} (hmerge : KeptByMerges P)
    {fuel : Nat} {q : List QueueItem} {nodes : List Node} (hfuel : q.length ≤ fuel + 1) (h : P q nodes) :
    ∃ q', q'.length ≤ 1 ∧ P q' (mergeLoop fuel q nodes) := by
  induction fuel generalizing q nodes with
  | zero => exact ⟨q, by omega, h⟩
  | succ m ih =>
    unfold mergeLoop
    split
    · rename_i hq
      exact ⟨q, by simp [extractMin_eq_none.1 hq], h⟩
    · rename_i a q₁ ha
      have hlen := extractMin_length ha
      split
      · rename_i hq₁
        exact ⟨q, by simp [hlen, extractMin_eq_none.1 hq₁], h⟩
      · rename_i b q₂ hb
        have hlen₁ := extractMin_length hb
        exact ih (by simp only [List.length_cons]; omega) (hmerge _ _ _ _ _ _ ha hb h)

@[simp] theorem initialQueue_length (leaves : List Node) : (initialQueue leaves).length = leaves.length := by
  simp [initialQueue]

/-- The same induction for a whole `build`. -/
theorem build_keeps {P : List QueueItem → List Node → Prop} (f : FreqTable) (hmerge : KeptByMerges P)
    (h : P (initialQueue (leavesOf f)) (leavesOf f)) : ∃ q', q'.length ≤ 1 ∧ P q' (build f) :=
  mergeLoop_keeps hmerge (by simp) h

theorem build_eq_nil {f : FreqTable} (h : presentCount f = 0) : build f = [] := by
  have hl : leavesOf f = [] := List.length_eq_zero_iff.1 (by rw [leavesOf_length, h])
  rw [build, hl]; rfl

/-! ### The invariant of the merges -/

/-- The clause of R21 on an internal entry. -/
def InternalAt (nodes : List Node) (i : Nat) : Prop :=
  ∃ l r, l ≠ r ∧ l < i ∧ r < i ∧ nodes[i]? = some (.internal l r (freqAt nodes l + freqAt nodes r))

theorem InternalAt.append {nodes : List Node} {i : Nat} (h : InternalAt nodes i) (more : List Node) :
    InternalAt (nodes ++ more) i := by
  obtain ⟨l, r, hlr, hl, hr, hn⟩ := h
  have hi : i < nodes.length := (List.getElem?_eq_some_iff.1 hn).1
  refine ⟨l, r, hlr, hl, hr, ?_⟩
  rw [freqAt_append_of_lt _ _ (hl.trans hi), freqAt_append_of_lt _ _ (hr.trans hi), List.getElem?_append_left hi, hn]

/-- What holds of the queue and the nodes between two merges. The queue and the children made so far are together all
nodes, each once. -/
structure MergeState (leaves : List Node) (q : List QueueItem) (nodes : List Node) : Prop where
  leaves_prefix : leaves <+: nodes
  internals : ∀ i, leaves.length ≤ i → i < nodes.length → InternalAt nodes i
  partition : (q.map QueueItem.idx ++ nodes.flatMap Node.children).Perm (List.range nodes.length)
  freqs : ∀ x ∈ q, x.freq = freqAt nodes x.idx
  size : q.length + nodes.length = 2 * leaves.length
  nonempty : q ≠ []

theorem initialQueue_map_idx (leaves : List Node) :
    (initialQueue leaves).map QueueItem.idx = List.range leaves.length := by
  rw [initialQueue, List.map_map, List.range_eq_range', ← List.zipIdx_map_snd 0 leaves]; rfl

theorem freq_of_mem_initialQueue {leaves : List Node} {x : QueueItem} (h : x ∈ initialQueue leaves) :
    x.freq = freqAt leaves x.idx := by
  obtain ⟨p, hp, rfl⟩ := List.mem_map.1 h
  have hget : leaves[p.2]? = some p.1 := List.mem_zipIdx_iff_getElem?.1 hp
  simp [freqAt, hget]

theorem MergeState.initial {leaves : List Node} (hne : leaves ≠ []) (hch : ∀ n ∈ leaves, n.children = []) :
    MergeState leaves (initialQueue leaves) leaves where
  leaves_prefix := List.prefix_refl _
  internals i h1 h2 := by omega
  partition := by
    rw [initialQueue_map_idx, List.flatMap_eq_nil_iff.2 hch, List.append_nil]
  freqs _ := freq_of_mem_initialQueue
  size := by rw [initialQueue_length]; omega
  nonempty h := hne (List.length_eq_zero_iff.1 (by rw [← initialQueue_length, h]; rfl))

/-- A queued node exists. -/
theorem MergeState.idx_lt {leaves nodes : List Node} {q : List QueueItem} (h : MergeState leaves q nodes)
    {x : QueueItem} (hx : x ∈ q) : x.idx < nodes.length :=
  List.mem_range.1 (h.partition.subset (List.mem_append_left _ (List.mem_map_of_mem hx)))

theorem MergeState.idx_nodup {leaves nodes : List Node} {q : List QueueItem} (h : MergeState leaves q nodes) :
    (q.map QueueItem.idx).Nodup :=
  (h.partition.nodup_iff.2 List.nodup_range).of_append_left

theorem MergeState.keptByMerges (leaves : List Node) : KeptByMerges (MergeState leaves) := by
  intro q q₁ q₂ nodes a b ha hb h
  have hq := extractMin_twice_perm ha hb
  have ham : a ∈ q := hq.symm.subset (by simp)
  have hbm : b ∈ q := hq.symm.subset (by simp)
  have hrest : ∀ x ∈ q₂, x ∈ q := fun x hx => hq.symm.subset (by simp [hx])
  constructor
  case leaves_prefix => exact h.leaves_prefix.trans (List.prefix_append _ _)
  case internals =>
    intro i h1 h2
    rcases Nat.lt_or_ge i nodes.length with hi | hi
    · exact (h.internals i h1 hi).append _
    · obtain rfl : i = nodes.length := by simp at h2; omega
      have hne : a.idx ≠ b.idx := by
        have hd := (hq.map QueueItem.idx).nodup_iff.1 h.idx_nodup
        simp only [List.map_cons, List.nodup_cons, List.mem_cons] at hd
        exact fun e => hd.1 (.inl e)
      refine ⟨a.idx, b.idx, hne, h.idx_lt ham, h.idx_lt hbm, ?_⟩
      rw [freqAt_append_of_lt _ _ (h.idx_lt ham), freqAt_append_of_lt _ _ (h.idx_lt hbm), ← h.freqs a ham,
        ← h.freqs b hbm]
      simp
  case partition =>
    have hp := ((hq.map QueueItem.idx).append_right (nodes.flatMap Node.children)).symm.trans h.partition
    rw [List.length_append, List.length_singleton, List.range_succ]
    refine List.Perm.trans ?_ (hp.append_right [nodes.length])
    rw [List.perm_iff_count]
    intro i
    simp only [List.flatMap_append, List.flatMap_cons, List.flatMap_nil, Node.children, List.map_cons,
      List.count_append, List.count_cons, List.count_nil]
    omega
  case freqs =>
    intro x hx
    rcases List.mem_cons.1 hx with rfl | hx
    · rw [freqAt_append_singleton, Node.freq]
    · rw [freqAt_append_of_lt _ _ (h.idx_lt (hrest x hx)), h.freqs x (hrest x hx)]
  case size =>
    have := hq.length_eq
    have := h.size
    simp at *
    omega
  case nonempty => simp

/-- At the end of `build`: one node is queued, and the invariant holds. -/
theorem build_mergeState {f : FreqTable} (h : presentCount f ≠ 0) :
    ∃ root, MergeState (leavesOf f) [root] (build f) := by
  have hne : leavesOf f ≠ [] := fun e => h (by rw [← leavesOf_length, e]; rfl)
  obtain ⟨q, hq, hm⟩ := build_keeps f (MergeState.keptByMerges (leavesOf f))
    (.initial hne fun _ => children_of_mem_leavesOf)
  match q, hq, hm.nonempty with
  | [root], _, _ => exact ⟨root, hm⟩

/-! ### `build` makes a strict tree -/

/-- In a table with a single queued node that node is the last one. -/
theorem MergeState.root_idx {leaves nodes : List Node} {root : QueueItem} (hch : ∀ n ∈ leaves, n.children = [])
    (h : MergeState leaves [root] nodes) : root.idx = nodes.length - 1 := by
  have hroot := h.idx_lt (List.mem_singleton_self root)
  have hlast : nodes.length - 1 ∈ [root].map QueueItem.idx ++ nodes.flatMap Node.children :=
    h.partition.symm.subset (List.mem_range.2 (by omega))
  rcases List.mem_append.1 hlast with hl | hl
  · exact (List.mem_singleton.1 hl).symm
  · obtain ⟨n, hn, hc⟩ := List.mem_flatMap.1 hl
    obtain ⟨i, hi, rfl⟩ := List.mem_iff_getElem.1 hn
    rcases Nat.lt_or_ge i leaves.length with hlt | hge
    · rw [← h.leaves_prefix.getElem hlt, hch _ (List.getElem_mem _)] at hc
      cases hc
    · obtain ⟨l, r, -, hl', hr', hn'⟩ := h.internals i hge hi
      have hn'' : nodes[i] = .internal l r (freqAt nodes l + freqAt nodes r) := by
        simpa [List.getElem?_eq_getElem hi] using hn'
      rw [hn''] at hc
      have : nodes.length - 1 = l ∨ nodes.length - 1 = r := by simpa [Node.children] using hc
      omega

theorem build_getElem?_leaf {f : FreqTable} {i : Nat} (hi : i < presentCount f) :
    (build f)[i]? = (leavesOf f)[i]? := by
  obtain ⟨root, hm⟩ := build_mergeState (f := f) (by omega)
  obtain ⟨more, hmore⟩ := hm.leaves_prefix
  rw [← hmore, List.getElem?_append_left (by rwa [leavesOf_length])]

theorem build_strictTree {f : FreqTable} (h : presentCount f ≠ 0) : StrictTree (build f) (presentCount f) := by
  obtain ⟨root, hm⟩ := build_mergeState h
  have hsize : (build f).length = 2 * presentCount f - 1 := by
    have := hm.size
    rw [leavesOf_length, List.length_singleton] at this
    omega
  constructor
  case length_eq => exact hsize
  case pos => omega
  case le_nsym => exact presentCount_le f
  case leaves =>
    intro i hi
    obtain ⟨b, hb⟩ : ∃ b, (presentBytes f)[i]? = some b :=
      ⟨_, List.getElem?_eq_getElem (by rwa [presentBytes_length])⟩
    refine ⟨b, countAt f b, ?_, mem_presentBytes.1 (List.mem_of_getElem? hb)⟩
    rw [build_getElem?_leaf hi]
    exact leavesOf_getElem?_eq_some.2 ⟨b, hb, rfl⟩
  case ascending =>
    intro i j a b v w hij hj ha hb
    rw [build_getElem?_leaf (hij.trans hj), leavesOf_getElem?_eq_some] at ha
    rw [build_getElem?_leaf hj, leavesOf_getElem?_eq_some] at hb
    obtain ⟨a', ha', ea⟩ := ha
    obtain ⟨b', hb', eb⟩ := hb
    obtain ⟨rfl, -⟩ : a' = a ∧ countAt f a' = v := by simpa [leafOf] using ea
    obtain ⟨rfl, -⟩ : b' = b ∧ countAt f b' = w := by simpa [leafOf] using eb
    obtain ⟨hi', rfl⟩ := List.getElem?_eq_some_iff.1 ha'
    obtain ⟨hj', rfl⟩ := List.getElem?_eq_some_iff.1 hb'
    exact List.pairwise_iff_getElem.1 (presentBytes_ascending f) i j hi' hj' hij
  case internals =>
    intro i h1 h2
    exact hm.internals i (by rwa [leavesOf_length]) (by omega)
  case one_parent =>
    have hlast : root.idx = 2 * presentCount f - 2 := by
      rw [hm.root_idx fun _ => children_of_mem_leavesOf]; omega
    have hp := hm.partition
    rw [hsize, show 2 * presentCount f - 1 = (2 * presentCount f - 2) + 1 by omega, List.range_succ, List.map_singleton,
      hlast] at hp
    exact (hp.trans List.perm_append_comm).cons_inv

theorem build_treeTable (f : FreqTable) : TreeTable (build f) := by
  by_cases h : presentCount f = 0
  · exact .inl (build_eq_nil h)
  · exact .inr ⟨_, build_strictTree h⟩

theorem build_length (f : FreqTable) :
    (build f).length = if presentCount f = 0 then 0 else 2 * presentCount f - 1 := by
  split
  · rw [build_eq_nil ‹_›]; rfl
  · exact (build_strictTree ‹_›).length_eq

/-- The leaves of the tree are the byte values counted, with their counts. -/
theorem leaf_mem_build {f : FreqTable} {b : Byte} {w : Nat} :
    .leaf b w ∈ build f ↔ countAt f b = w ∧ 0 < w := by
  rw [← leaf_mem_leavesOf]
  by_cases h : presentCount f = 0
  · have hl : leavesOf f = [] := List.length_eq_zero_iff.1 (by rw [leavesOf_length, h])
    rw [build_eq_nil h, hl]
  obtain ⟨root, hm⟩ := build_mergeState h
  refine ⟨fun hmem => ?_, fun hmem => hm.leaves_prefix.subset hmem⟩
  obtain ⟨i, hi⟩ := List.mem_iff_getElem?.1 hmem
  rcases Nat.lt_or_ge i (presentCount f) with hlt | hge
  · exact List.mem_of_getElem? (build_getElem?_leaf hlt ▸ hi)
  · obtain ⟨l, r, -, -, -, hn⟩ := hm.internals i (by rwa [leavesOf_length]) (List.getElem?_eq_some_iff.1 hi).1
    simp [hn] at hi

/-! ### No node's frequency exceeds the total -/

theorem sum_map_filter_pos {α : Type} (g : α → Nat) (l : List α) :
    ((l.filter fun x => decide (g x > 0)).map g).sum = (l.map g).sum := by
  induction l with
  | nil => rfl
  | cons x xs ih =>
    by_cases h : g x > 0
    · simp [h, ih]
    · simp [h, ih]; omega

theorem leavesOf_freq_sum (f : FreqTable) : ((leavesOf f).map Node.freq).sum = totalCount f := by
  rw [leavesOf_eq_map, List.map_map, totalCount_eq]
  exact sum_map_filter_pos (countAt f) allBytes

theorem initialQueue_map_freq (leaves : List Node) :
    (initialQueue leaves).map QueueItem.freq = leaves.map Node.freq := by
  rw [initialQueue, List.map_map]
  conv_rhs => rw [← List.zipIdx_map_fst 0 leaves, List.map_map]
  rfl

/-- Between two merges the queued frequencies sum to the total of the counts, and no node's is above it. -/
def FreqsWithin (total : Nat) (q : List QueueItem) (nodes : List Node) : Prop :=
  (q.map QueueItem.freq).sum = total ∧ ∀ n ∈ nodes, n.freq ≤ total

theorem FreqsWithin.initial (f : FreqTable) :
    FreqsWithin (totalCount f) (initialQueue (leavesOf f)) (leavesOf f) := by
  rw [FreqsWithin, initialQueue_map_freq, leavesOf_freq_sum]
  exact ⟨rfl, fun n hn => leavesOf_freq_sum f ▸ List.single_le_sum (by simp) _ (List.mem_map_of_mem hn)⟩

theorem FreqsWithin.keptByMerges (total : Nat) : KeptByMerges (FreqsWithin total) := by
  intro q q₁ q₂ nodes a b ha hb ⟨hsum, hle⟩
  have hq : (q.map QueueItem.freq).sum = a.freq + (b.freq + (q₂.map QueueItem.freq).sum) := by
    simpa using ((extractMin_twice_perm ha hb).map QueueItem.freq).sum_eq
  refine ⟨by simp; omega, fun n hn => ?_⟩
  rcases List.mem_append.1 hn with hn | hn
  · exact hle n hn
  · obtain rfl := List.mem_singleton.1 hn
    simp only [Node.freq]
    omega

/-- R70: no node's frequency is above the total of the counts. -/
theorem build_freq_le {f : FreqTable} {n : Node} (h : n ∈ build f) : n.freq ≤ totalCount f := by
  obtain ⟨q, -, -, hle⟩ := build_keeps f (FreqsWithin.keptByMerges (totalCount f)) (.initial f)
  exact hle n h

/-- Settles O19: BUILD writes what `build` makes, and the merge invariant makes that a strict tree. -/
theorem buildMakesAStrictTree : Obligations.BuildMakesAStrictTree := by
  unfold Obligations.BuildMakesAStrictTree
  intro s
  exact ⟨s.buildPhase, exec_build s, State.setEcode_ecode _ _, build_treeTable s.freq, rfl, build_length s.freq,
    fun _ _ => leaf_mem_build, rfl⟩

end Sys2Proof.Machine
end

section
/-! PROOFS. The code table `assign` makes of a tree is a `PrefixCode` (R22, R72, R75, R76), and `inverse` of
a `PrefixCode` is its inverse (R24, R73). -/

namespace Sys2Proof.Machine

/-! ### The paths of a walk -/

/-- Neither path begins with the other. -/
def Incomparable (x y : Byte × Bits) : Prop := ¬ x.2 <+: y.2 ∧ ¬ y.2 <+: x.2

theorem not_prefix_of_branches {p x y : Bits} {c d : Bool} (hcd : c ≠ d) (hx : p ++ [c] <+: x)
    (hy : p ++ [d] <+: y) : ¬ x <+: y := by
  intro hxy
  have h := List.prefix_of_prefix_length_le (hx.trans hxy) hy (by simp)
  exact hcd (by simpa using h.eq_of_length (by simp))

theorem incomparable_of_branches {p : Bits} {x y : Byte × Bits} (hx : p ++ [false] <+: x.2)
    (hy : p ++ [true] <+: y.2) : Incomparable x y :=
  ⟨not_prefix_of_branches (by decide) hx hy, not_prefix_of_branches (by decide) hy hx⟩

/-- What a walk visits: the leaf it starts at, or one of the two walks from the children. -/
theorem mem_walk_succ {m i : Nat} {nodes : List Node} {p : Bits} {x : Byte × Bits} :
    x ∈ walk (m + 1) nodes i p ↔
      (∃ f, nodes[i]? = some (.leaf x.1 f) ∧ x.2 = p) ∨
      (∃ l r f, nodes[i]? = some (.internal l r f) ∧
        (x ∈ walk m nodes l (p ++ [false]) ∨ x ∈ walk m nodes r (p ++ [true]))) := by
  rw [walk]
  split <;> rename_i hn <;> simp [hn, Prod.ext_iff, eq_comm]

theorem prefix_of_mem_walk {m i : Nat} {nodes : List Node} {p : Bits} {x : Byte × Bits}
    (h : x ∈ walk m nodes i p) : p <+: x.2 := by
  induction m generalizing i p with
  | zero => cases h
  | succ m ih =>
    rcases mem_walk_succ.1 h with ⟨f, -, hp⟩ | ⟨l, r, f, -, hx | hx⟩
    · rw [hp]
    · exact (List.prefix_append _ _).trans (ih hx)
    · exact (List.prefix_append _ _).trans (ih hx)

/-- R75: of the paths of a walk none begins with another, whatever the node list. -/
theorem walk_pairwise (m : Nat) (nodes : List Node) (i : Nat) (p : Bits) :
    (walk m nodes i p).Pairwise Incomparable := by
  induction m generalizing i p with
  | zero => exact .nil
  | succ m ih =>
    rw [walk]
    split
    · exact .nil
    · exact List.pairwise_singleton _ _
    · exact List.pairwise_append.2 ⟨ih _ _, ih _ _, fun _ hx _ hy =>
        incomparable_of_branches (prefix_of_mem_walk hx) (prefix_of_mem_walk hy)⟩

theorem StrictTree.of_internal {nodes : List Node} {n i l r f : Nat} (h : StrictTree nodes n)
    (hi : nodes[i]? = some (.internal l r f)) : n ≤ i ∧ l < i ∧ r < i := by
  have hlt : i < nodes.length := (List.getElem?_eq_some_iff.1 hi).1
  rcases Nat.lt_or_ge i n with hin | hin
  · obtain ⟨sym, w, hleaf, -⟩ := h.leaves i hin
    simp [hi] at hleaf
  · obtain ⟨l', r', -, hl, hr, hn⟩ := h.internals i hin (h.length_eq ▸ hlt)
    obtain ⟨rfl, rfl, -⟩ : l = l' ∧ r = r' ∧ f = _ := by simpa [hi] using hn
    exact ⟨hin, hl, hr⟩

/-- R76: a path grows at internal entries only, whose indices fall along it from the root's down to the number of
leaves. -/
theorem StrictTree.walk_length_le {nodes : List Node} {n m i : Nat} {p : Bits} {x : Byte × Bits}
    (h : StrictTree nodes n) (hx : x ∈ walk m nodes i p) : x.2.length ≤ p.length + (i + 1 - n) := by
  induction m generalizing i p with
  | zero => cases hx
  | succ m ih =>
    rcases mem_walk_succ.1 hx with ⟨f, -, hp⟩ | ⟨l, r, f, hi, hx⟩
    · rw [hp]; omega
    · obtain ⟨hn, hl, hr⟩ := h.of_internal hi
      rcases hx with hx | hx <;>
      · have := ih hx
        simp only [List.length_append, List.length_singleton] at this
        omega

/-! ### The pairs of a node list -/

theorem codePairs_pairwise (nodes : List Node) : (codePairs nodes).Pairwise Incomparable := by
  unfold codePairs
  split
  · exact .nil
  · exact List.pairwise_singleton _ _
  · exact walk_pairwise _ _ _ _

/-- A strict tree is a single leaf, or its root is an internal entry and its codes are the paths from there. -/
theorem StrictTree.codePairs_cases {nodes : List Node} {n : Nat} (h : StrictTree nodes n) :
    (n = 1 ∧ ∃ b f, nodes = [.leaf b f] ∧ codePairs nodes = [(b, [false])]) ∨
    (2 ≤ n ∧ codePairs nodes = walk nodes.length nodes (nodes.length - 1) []) := by
  have hlen := h.length_eq
  have hpos := h.pos
  rcases Nat.lt_or_ge n 2 with hn | hn
  · obtain rfl : n = 1 := by omega
    obtain ⟨node, rfl⟩ := List.length_eq_one_iff.1 hlen
    obtain ⟨b, f, hb, -⟩ := h.leaves 0 (by omega)
    obtain rfl : node = .leaf b f := by simpa using hb
    exact .inl ⟨rfl, b, f, rfl, rfl⟩
  · refine .inr ⟨hn, ?_⟩
    match nodes, hlen with
    | _ :: _ :: _, _ => simp [codePairs]
    | [_], hlen => simp at hlen; omega
    | [], hlen => simp at hlen; omega

/-- R76: every code has at least one bit, at most n-1 for n leaves if there are two, and one bit if there is one. -/
theorem StrictTree.codePairs_length {nodes : List Node} {n : Nat} {x : Byte × Bits} (h : StrictTree nodes n)
    (hx : x ∈ codePairs nodes) : 1 ≤ x.2.length ∧ x.2.length ≤ max 1 (n - 1) := by
  rcases h.codePairs_cases with ⟨-, b, f, -, hpairs⟩ | ⟨hn, hpairs⟩
  · obtain rfl : x = (b, [false]) := by simpa [hpairs] using hx
    simp
  · rw [hpairs] at hx
    have hlen := h.length_eq
    constructor
    · obtain ⟨l, r, -, -, -, hroot⟩ := h.internals (nodes.length - 1) (by omega) (by omega)
      obtain ⟨m, hm⟩ : ∃ m, nodes.length = m + 1 := ⟨nodes.length - 1, by omega⟩
      rw [hm, Nat.add_sub_cancel] at hx hroot
      rcases mem_walk_succ.1 hx with ⟨f, hleaf, -⟩ | ⟨_, _, _, -, hx | hx⟩
      · simp [hroot] at hleaf
      · exact (prefix_of_mem_walk hx).length_le
      · exact (prefix_of_mem_walk hx).length_le
    · have := h.walk_length_le hx
      simp only [List.length_nil] at this
      omega

/-! ### The code table -/

theorem codeAt_foldl_setCode {pairs : List (Byte × Bits)} {table : CodeTable} {b : Byte} {p : Bits}
    (h : codeAt (pairs.foldl (fun c q => setCode c q.1 q.2) table) b = some p) :
    (b, p) ∈ pairs ∨ codeAt table b = some p := by
  induction pairs generalizing table with
  | nil => exact .inr h
  | cons q rest ih =>
    obtain ⟨a, c⟩ := q
    rcases ih h with hmem | hcode
    · exact .inl (List.mem_cons_of_mem _ hmem)
    · rw [codeAt_setCode] at hcode
      split at hcode
      · rename_i hab
        obtain rfl : a = b := hab
        obtain rfl : c = p := Option.some.inj hcode
        exact .inl List.mem_cons_self
      · exact .inr hcode

/-- A code of the table is one of the pairs. -/
theorem mem_codePairs_of_codeAt_assign {nodes : List Node} {b : Byte} {p : Bits}
    (h : codeAt (assign nodes) b = some p) : (b, p) ∈ codePairs nodes := by
  simpa using codeAt_foldl_setCode h

/-- R75, for every node list. -/
theorem assign_prefixFree {nodes : List Node} {a b : Byte} {p q : Bits} (hab : a ≠ b)
    (ha : codeAt (assign nodes) a = some p) (hb : codeAt (assign nodes) b = some q) : ¬ p <+: q := by
  have hne : (a, p) ≠ (b, q) := fun e => hab (congrArg Prod.fst e)
  have : Std.Symm Incomparable := ⟨fun _ _ h => ⟨h.2, h.1⟩⟩
  exact ((codePairs_pairwise nodes).forall (mem_codePairs_of_codeAt_assign ha)
    (mem_codePairs_of_codeAt_assign hb) hne).1

theorem empty_prefixCode : PrefixCode CodeTable.empty where
  nonempty b p h := by simp at h
  short b p h := by simp at h
  prefixFree a b p q _ h := by simp at h

theorem assign_nil : assign [] = CodeTable.empty := rfl

theorem assign_prefixCode {nodes : List Node} (h : TreeTable nodes) : PrefixCode (assign nodes) := by
  rcases h with rfl | ⟨n, h⟩
  · exact assign_nil ▸ empty_prefixCode
  · constructor
    case nonempty =>
      intro b p hp
      exact List.ne_nil_of_length_pos (h.codePairs_length (mem_codePairs_of_codeAt_assign hp)).1
    case short =>
      intro b p hp
      have := (h.codePairs_length (mem_codePairs_of_codeAt_assign hp)).2
      have := h.le_nsym
      simp only at *
      omega
    case prefixFree => exact fun _ _ _ _ => assign_prefixFree

/-! ### The reverse table -/

/-- One round of the loop of R73 that makes RCODE. -/
def addKey (table : CodeTable) (r : ReverseTable) (b : Byte) : ReverseTable :=
  match codeAt table b with
  | some p => (p, b) :: r
  | none => r

theorem inverse_eq_foldl (table : CodeTable) : inverse table = allBytes.foldl (addKey table) [] := by
  rw [inverse, zipIdx_toList_eq_map, List.foldl_map]
  congr 1
  funext r b
  cases h : table[b.toFin] <;> simp [addKey, codeAt, h]

theorem mem_addKey {table : CodeTable} {r : ReverseTable} {b c : Byte} {p : Bits} :
    (p, c) ∈ addKey table r b ↔ (p, c) ∈ r ∨ (c = b ∧ codeAt table c = some p) := by
  unfold addKey
  split
  · rename_i q hq
    rw [List.mem_cons, Prod.mk.injEq, or_comm, and_comm]
    refine or_congr_right (and_congr_right fun hc => ?_)
    rw [hc, hq, Option.some.injEq, eq_comm]
  · rename_i hq
    refine (or_iff_left ?_).symm
    rintro ⟨rfl, hp⟩
    simp [hq] at hp

theorem mem_foldl_addKey {table : CodeTable} {bytes : List Byte} {r : ReverseTable} {b : Byte} {p : Bits} :
    (p, b) ∈ bytes.foldl (addKey table) r ↔ (p, b) ∈ r ∨ (b ∈ bytes ∧ codeAt table b = some p) := by
  induction bytes generalizing r with
  | nil => simp
  | cons c rest ih =>
    rw [List.foldl_cons, ih, mem_addKey, List.mem_cons, or_assoc, ← or_and_right]

/-- The pairs of the reverse table are the codes. -/
theorem mem_inverse {table : CodeTable} {b : Byte} {p : Bits} :
    (p, b) ∈ inverse table ↔ codeAt table b = some p := by
  rw [inverse_eq_foldl, mem_foldl_addKey]
  simp [mem_allBytes]

/-- A bit-string that stands in a pair is a key. -/
theorem exists_rcodeAt_of_mem {r : ReverseTable} {p : Bits} {b : Byte} (h : (p, b) ∈ r) :
    ∃ c, rcodeAt r p = some c := by
  induction r with
  | nil => cases h
  | cons e rest ih =>
    obtain ⟨d, c⟩ := e
    rw [rcodeAt_cons]
    split
    · exact ⟨c, rfl⟩
    · rename_i hd
      refine ih ((List.mem_cons.1 h).resolve_left fun he => hd ?_)
      exact (congrArg Prod.fst he).symm

theorem PrefixCode.injective {table : CodeTable} (h : PrefixCode table) {a b : Byte} {p : Bits}
    (ha : codeAt table a = some p) (hb : codeAt table b = some p) : a = b :=
  by_contra fun hab => h.prefixFree a b p p hab ha hb (List.prefix_refl p)

theorem PrefixCode.inverse_tables {table : CodeTable} (h : PrefixCode table) :
    InverseTables table (inverse table) := by
  intro b p
  refine ⟨fun hr => mem_inverse.1 (mem_of_rcodeAt hr), fun hb => ?_⟩
  obtain ⟨c, hc⟩ := exists_rcodeAt_of_mem (mem_inverse.2 hb)
  rw [hc, h.injective (mem_inverse.1 (mem_of_rcodeAt hc)) hb]

theorem empty_inverseTables : InverseTables CodeTable.empty [] := fun b p => by simp

end Sys2Proof.Machine
end

section
/-! PROOFS. What one step can do to the state, once, and the invariant of the block (R15 to R18, R20 to R24, R62, R70)
over each of the updates a step is made of. -/

namespace Sys2Proof.Machine

/-! ### A property kept by every transition is kept by every step -/

/-- A write to CMD that answers a next state ran the command of its word, or reported an illegal word. -/
theorem commandWrite_next {w : Byte} {s t : State} (h : commandWrite w s = .next t) :
    (∃ i u, decode w = .ok i ∧ exec i s = .next u ∧ t = u.respond (.outcome u.ecode)) ∨
    t = s.illegalCommand.respond (.outcome s.illegalCommand.ecode) := by
  unfold commandWrite at h
  split at h
  · rename_i i hd
    cases he : exec i s with
    | next u => exact .inl ⟨i, u, hd, he, by simpa [he, respondOutcome] using h.symm⟩
    | fault f => simp [he, respondOutcome] at h
    | refused r => simp [he, respondOutcome] at h
  · exact .inr (by simpa [respondOutcome] using h.symm)

/-- A property of states kept by each of the updates a step is made of. -/
structure KeptByUpdates (P : State → Prop) : Prop where
  take : ∀ {s}, P s → ∀ rest, P { s with pending := rest }
  respond : ∀ {s}, P s → ∀ r, P (s.respond r)
  illegal : ∀ {s : State}, P s → P s.illegalCommand
  byteIn : ∀ {s : State}, P s → ∀ i b, i < s.caps.maxIn → P (s.writeByteIn i b)
  inLen : ∀ {s}, P s → ∀ v, P (s.writeInLen v)
  reset : ∀ {s}, P s → P s.afterReset
  command : ∀ {s t}, P s → ∀ i, exec i s = .next t → P t

section
variable {P : State → Prop} {s t : State}

theorem KeptByUpdates.commandWrite (hP : KeptByUpdates P) (hs : P s) {w : Byte}
    (h : commandWrite w s = .next t) : P t := by
  rcases commandWrite_next h with ⟨i, u, -, he, rfl⟩ | rfl
  · exact hP.respond (hP.command hs i he) _
  · exact hP.respond (hP.illegal hs) _

theorem KeptByUpdates.hostWrite (hP : KeptByUpdates P) (hs : P s) {a : Addr} {v : Nat}
    (h : hostWrite a v s = .next t) : P t := by
  rcases hostWrite_next h with ⟨-, -, hc⟩ | ⟨i, hi, -, rfl⟩ | ⟨-, rfl⟩ | rfl
  · exact hP.commandWrite hs hc
  · exact hP.respond (hP.byteIn hs i _ (resolve_inbuf hi)) _
  · exact hP.respond (hP.inLen hs v) _
  · exact hP.respond hs _

theorem KeptByUpdates.takeEvent (hP : KeptByUpdates P) (hs : P s) {e : Event} (h : takeEvent e s = .next t) :
    P t := by
  match e, h with
  | .txn (.read _), h =>
    obtain ⟨_, -, rfl⟩ := hostRead_next h
    exact hP.respond hs _
  | .txn (.write _ _), h => exact hP.hostWrite hs h
  | .reset, h =>
    obtain rfl : s.afterReset = t := by simpa [Machine.takeEvent] using h
    exact hP.reset hs

theorem KeptByUpdates.step (hP : KeptByUpdates P) (hs : P s) (h : step s = .next t) : P t := by
  cases hp : s.pending with
  | nil =>
    obtain rfl : s = t := by simpa [step_of_pending_nil hp] using h
    exact hs
  | cons e rest =>
    rw [step_of_pending_cons hp] at h
    exact hP.takeEvent (hP.take hs rest) h

end

/-! ### What the commands deliver fits OUTBUF -/

@[simp] theorem Ending.error_bytes (e : Ecode) : (Ending.error e).bytes = [] := rfl

theorem Ending.ofResult_bytes_length_le (maxOut : Nat) (bytes : List Byte) :
    (Ending.ofResult maxOut bytes).bytes.length ≤ maxOut := by
  rcases Ending.ofResult_cases maxOut bytes with ⟨hle, he⟩ | ⟨-, he⟩
  · simpa [he] using hle
  · simp [he]

theorem packEnding_bytes_length_le (maxOut : Nat) (data : List Byte) (table : CodeTable) :
    (packEnding maxOut data table).bytes.length ≤ maxOut := by
  unfold packEnding
  split
  · exact Nat.zero_le _
  · exact Ending.ofResult_bytes_length_le _ _

theorem unpackEnding_bytes_length_le (maxOut : Nat) (frame : List Byte) (r : ReverseTable) :
    (unpackEnding maxOut frame r).bytes.length ≤ maxOut := by
  unfold unpackEnding
  split
  · exact Nat.zero_le _
  · split
    · exact Ending.ofResult_bytes_length_le _ _
    · exact Nat.zero_le _

/-! ### IN_LEN, OUT_LEN and the capacities -/

/-- R16, R17, R29: the capacities are the block's, and both lengths are within them. -/
def LengthsWithin (c : Capacities) (s : State) : Prop :=
  s.caps = c ∧ s.inLen ≤ c.maxIn ∧ s.outLen ≤ c.maxOut

theorem LengthsWithin.keptByUpdates (c : Capacities) : KeptByUpdates (LengthsWithin c) where
  take h _ := h
  respond h _ := h
  illegal h := h
  byteIn h _ _ _ := h
  reset := fun ⟨hc, _, _⟩ => ⟨hc, Nat.zero_le _, Nat.zero_le _⟩
  inLen := by
    rintro s ⟨rfl, hin, hout⟩ v
    refine ⟨s.writeInLen_caps v, ?_, (s.writeInLen_outLen v).symm ▸ hout⟩
    rw [State.writeInLen_inLen]
    split
    · assumption
    · exact hin
  command := by
    rintro s t ⟨rfl, hin, hout⟩ i he
    cases i <;> cases he
    case clear => exact ⟨rfl, hin, Nat.zero_le _⟩
    case count => exact ⟨rfl, hin, hout⟩
    case build => exact ⟨rfl, hin, hout⟩
    case assign => exact ⟨rfl, hin, hout⟩
    case pack => exact ⟨rfl, hin, packEnding_bytes_length_le _ _ _⟩
    case unpack => exact ⟨rfl, hin, unpackEnding_bytes_length_le _ _ _⟩
    case decode => exact ⟨rfl, hin, unpackEnding_bytes_length_le _ _ _⟩
    case encode => exact ⟨rfl, hin, packEnding_bytes_length_le _ _ _⟩

/-! ### What COUNT writes fits CNT_W -/

/-- R62, R63: the counts of a byte sequence sum to its length. -/
theorem totalCount_freqOf (data : List Byte) : totalCount (freqOf data) = data.length := by
  calc totalCount (freqOf data)
    _ = (allBytes.map data.count).sum := by rw [totalCount_eq, funext (countAt_freqOf data)]
    _ = ∑ b ∈ allBytes.toFinset, data.count b := (List.sum_toFinset _ allBytes_nodup).symm
    _ = data.length := by
      simpa using Multiset.sum_count_eq_card (m := (data : Multiset Byte)) (s := allBytes.toFinset)
        fun b _ => List.mem_toFinset.2 (mem_allBytes b)

theorem totalCount_zero : totalCount FreqTable.zero = 0 := by
  rw [totalCount_eq, funext countAt_zero, List.sum_map_zero]

/-! ### The invariant over each update -/

section
variable {s : State}

theorem State.Inv.setEcode (h : s.Inv) (e : Ecode) : (s.setEcode e).Inv :=
  { h with status := ⟨statusWord_high e, by rw [State.setEcode_ecode]; cases e <;> decide⟩ }

theorem State.Inv.setFreq (h : s.Inv) {f : FreqTable} (hf : totalCount f ≤ s.caps.maxIn) : (s.setFreq f).Inv :=
  { h with counts := hf }

theorem State.Inv.setNodes (h : s.Inv) {nodes : List Node} (ht : TreeTable nodes)
    (hn : ∀ n ∈ nodes, n.freq ≤ s.caps.maxIn) : (s.setNodes nodes).Inv :=
  { h with nnodes_eq := rfl, tree := ht, nodeCounts := hn }

theorem State.Inv.setCodes (h : s.Inv) {table : CodeTable} {r : ReverseTable} (hc : PrefixCode table)
    (hr : InverseTables table r) : (s.setCodes table r).Inv :=
  { h with codes := hc, tables := hr }

theorem State.Inv.setOutput (h : s.Inv) {bytes : List Byte} (hb : bytes.length ≤ s.caps.maxOut) :
    (s.setOutput bytes).Inv :=
  { h with
    outLen_le := hb
    outbuf_wf := Memory.wf_ofBytesFrom 0 bytes
    outbuf_range := fun a => by simp [Memory.read?_ofBytesFrom] }

theorem State.Inv.finish (h : s.Inv) {e : Ending} (he : e.bytes.length ≤ s.caps.maxOut) : (s.finish e).Inv :=
  (h.setOutput he).setEcode e.outcome

theorem State.Inv.respond (h : s.Inv) (r : Response) : (s.respond r).Inv := { h with }

theorem State.Inv.setPending (h : s.Inv) (es : List Event) : State.Inv { s with pending := es } := { h with }

theorem State.Inv.writeByteIn (h : s.Inv) {i : Nat} (b : Byte) (hi : i < s.caps.maxIn) :
    (s.writeByteIn i b).Inv :=
  { h with
    inbuf_wf := Memory.wf_write i b h.inbuf_wf
    inbuf_range := fun a ha => by
      by_cases hai : a = i
      · exact hai ▸ hi
      · rw [State.writeByteIn_inbuf, Memory.read?_write_of_ne _ _ hai] at ha
        exact h.inbuf_range a ha }

theorem State.Inv.writeInLen (h : s.Inv) (v : Nat) : (s.writeInLen v).Inv := by
  unfold State.writeInLen
  split
  · exact { h with inLen_le := ‹_› }
  · exact h

/-- R27: the reset state is sound, whatever the draw counters, the events to come and the response. -/
theorem State.inv_of_reset (c : Capacities) (es : List Event) (r : Option Response) (i j k : Nat) :
    State.Inv { State.resetWith c with pending := es, response := r, inDraw := i, outDraw := j, nodeDraw := k } where
  status := by
    show (0#8).extractLsb' 4 4 = 0#4 ∧ ((0#8).extractLsb' 0 4).toNat ≤ 4
    decide
  inLen_le := Nat.zero_le _
  outLen_le := Nat.zero_le _
  inbuf_wf := Memory.wf_nil
  inbuf_range a ha := by cases ha
  outbuf_wf := Memory.wf_nil
  outbuf_range a := by simp [State.resetWith]
  nnodes_eq := rfl
  tree := .inl rfl
  counts := by simp [State.resetWith, totalCount_zero]
  nodeCounts n hn := by cases hn
  codes := empty_prefixCode
  tables := empty_inverseTables

theorem State.inv_resetWith (c : Capacities) : (State.resetWith c).Inv := State.inv_of_reset c [] none 0 0 0

theorem State.inv_afterReset (s : State) : s.afterReset.Inv := State.inv_of_reset s.caps _ _ _ _ _

/-! ### The invariant over each command -/

theorem State.Inv.validNodes (h : s.Inv) : s.validNodes = s.node := by
  rw [State.validNodes, h.nnodes_eq, List.take_length]

theorem State.Inv.countPhase (h : s.Inv) : s.countPhase.Inv :=
  (h.setFreq (by rw [totalCount_freqOf, State.input_length]; exact h.inLen_le)).setEcode .ok

theorem State.Inv.buildPhase (h : s.Inv) : s.buildPhase.Inv :=
  (h.setNodes (build_treeTable s.freq) fun _ hn => (build_freq_le hn).trans h.counts).setEcode .ok

theorem State.Inv.assignPhase (h : s.Inv) : s.assignPhase.Inv := by
  have hcode : PrefixCode (assign s.validNodes) := assign_prefixCode (h.validNodes.symm ▸ h.tree)
  exact (h.setCodes hcode hcode.inverse_tables).setEcode .ok

theorem State.Inv.packPhase (h : s.Inv) : s.packPhase.Inv := h.finish (packEnding_bytes_length_le _ _ _)

theorem State.Inv.unpackPhase (h : s.Inv) : s.unpackPhase.Inv := h.finish (unpackEnding_bytes_length_le _ _ _)

theorem State.Inv.clearPhase (h : s.Inv) : s.clearPhase.Inv := by
  have hfreq := h.setFreq (f := FreqTable.zero) (by simp [totalCount_zero])
  have hnodes := hfreq.setNodes (.inl rfl) (by simp)
  exact ((hnodes.setCodes empty_prefixCode empty_inverseTables).setOutput (bytes := []) (Nat.zero_le _)).setEcode .ok

end

theorem State.Inv.keptByUpdates : KeptByUpdates State.Inv where
  take := State.Inv.setPending
  respond := State.Inv.respond
  illegal h := h.setEcode .illegalCommand
  byteIn h _ b hi := h.writeByteIn b hi
  inLen := State.Inv.writeInLen
  reset {s} _ := s.inv_afterReset
  command {s t} h i he := by
    cases i <;> cases he
    case clear => exact h.clearPhase
    case count => exact h.countPhase
    case build => exact h.buildPhase
    case assign => exact h.assignPhase
    case pack => exact h.packPhase
    case unpack => exact h.unpackPhase
    case decode => exact h.unpackPhase
    case encode => exact h.countPhase.buildPhase.assignPhase.packPhase

/-- Settles O58: each update a step is made of keeps the invariant, by the strict tree of `build` and the `PrefixCode`
of `assign`. -/
theorem stepKeepsTheInvariant : Obligations.StepKeepsTheInvariant := by
  unfold Obligations.StepKeepsTheInvariant
  exact fun _ _ => State.Inv.keptByUpdates.step

/-- Settles O57, with the lengths alone as the invariant. -/
theorem lengthsStayWithinCapacity : Obligations.LengthsStayWithinCapacity := by
  unfold Obligations.LengthsStayWithinCapacity
  intro s t hin hout h
  obtain ⟨hcaps, hin', hout'⟩ := (LengthsWithin.keptByUpdates s.caps).step ⟨rfl, hin, hout⟩ h
  exact ⟨hcaps, hcaps ▸ hin', hcaps ▸ hout'⟩

/-- Settles O2. -/
theorem resetMeetsTheInvariant : Obligations.ResetMeetsTheInvariant := by
  unfold Obligations.ResetMeetsTheInvariant
  exact ⟨State.inv_resetWith, State.inv_resetWith _, fun _ he => by cases he⟩

end Sys2Proof.Machine
end

section
/-! PROOFS. What the host's accesses to the registers and buffers do (R14 to R18, R25, R33), and what each command reads
and writes (R13, R28). -/

namespace Sys2Proof.Machine

/-! ### Reset -/

/-- Settles O1. -/
theorem resetStateIsTheSpecs : Obligations.ResetStateIsTheSpecs := by
  unfold Obligations.ResetStateIsTheSpecs
  exact fun c => ⟨rfl, rfl, rfl, rfl, rfl, rfl, countAt_zero, codeAt_empty, rcodeAt_nil, fun _ => rfl, fun _ => rfl,
    fun _ => rfl, rfl⟩

/-! ### The host's accesses -/

/-- A host read of an element, and no other effect. -/
theorem hostRead_of_resolve {a : Addr} {s : State} {e : Element} (h : resolve s.caps a = some e) :
    hostRead a s = .next { s with response := some (.data (s.readElement e)) } := by
  simp [hostRead, h, State.respond]

theorem resolve_inbuf_of_lt {c : Capacities} {i : Nat} (h : i < c.maxIn) : resolve c ⟨1, i⟩ = some (.inbuf i) := by
  simp [resolve, h]

theorem resolve_outbuf_of_lt {c : Capacities} {j : Nat} (h : j < c.maxOut) : resolve c ⟨2, j⟩ = some (.outbuf j) := by
  simp [resolve, h]

/-- A write of a byte to CMD is the write of a command word. -/
theorem hostWrite_cmdAddr (w : Byte) (s : State) : hostWrite cmdAddr w.toNat s = commandWrite w s := by
  simp [hostWrite, cmdAddr, resolve, w.isLt]

/-- R15: in a sound state STATUS is ECODE, which is at most 4. -/
theorem State.Inv.status_eq_ecode {s : State} (h : s.Inv) :
    s.status.toNat = s.ecode.toNat ∧ s.status.toNat ≤ 4 := by
  obtain ⟨hhigh, hle⟩ := h.status
  have hlt := s.status.isLt
  have hhigh' := congrArg BitVec.toNat hhigh
  rw [State.ecode] at hle ⊢
  simp only [BitVec.extractLsb'_toNat, Nat.shiftRight_eq_div_pow, BitVec.toNat_ofNat] at *
  omega

/-- Settles O13. -/
theorem registerReadsReturnTheRegister : Obligations.RegisterReadsReturnTheRegister := by
  unfold Obligations.RegisterReadsReturnTheRegister
  exact fun s => ⟨rfl, rfl, rfl, rfl, fun i hi => hostRead_of_resolve (resolve_inbuf_of_lt hi),
    fun j hj => hostRead_of_resolve (resolve_outbuf_of_lt hj), State.Inv.status_eq_ecode⟩

/-! ### Commands -/

/-- R155: every command ends, with a next state, and leaves IN_LEN as it was. -/
theorem exec_completes (i : Instr) (s : State) : ∃ t, exec i s = .next t ∧ t.inLen = s.inLen := by
  cases i <;> exact ⟨_, rfl, rfl⟩

/-- Settles O10: the event is a write to CMD, and that is the command with its outcome as the response. -/
theorem stepRunsTheDecodedCommand : Obligations.StepRunsTheDecodedCommand := by
  unfold Obligations.StepRunsTheDecodedCommand
  intro s w i rest hp hd
  obtain ⟨t, ht, -⟩ := exec_completes i { s with pending := rest }
  refine ⟨t, ht, ?_⟩
  calc step s
    _ = hostWrite cmdAddr w.toNat { s with pending := rest } := step_of_pending_cons hp
    _ = commandWrite w { s with pending := rest } := hostWrite_cmdAddr _ _
    _ = .next (t.respond (.outcome t.ecode)) := commandWrite_of_decode hd ht

theorem State.input_getElem? {s : State} {i : Nat} (h : i < s.inLen) : s.input[i]? = some (s.byteIn i) := by
  simp [State.input, h]

/-- Settles O12. -/
theorem inLenIsWrittenByTheHostOnly : Obligations.InLenIsWrittenByTheHostOnly := by
  unfold Obligations.InLenIsWrittenByTheHostOnly
  refine ⟨fun s v => ?_, fun s => rfl, fun s => ⟨s.input_length, fun i => State.input_getElem?⟩, exec_completes⟩
  show Host.Outcome.next ((s.writeInLen v).respond .written) = _
  unfold State.writeInLen
  split <;> rfl

/-- Settles O53: the three commands write FREQ, NODE with NNODES, and CODE with RCODE. -/
theorem tableCommandsFrame : Obligations.TableCommandsFrame := by
  unfold Obligations.TableCommandsFrame
  rintro i s t (rfl | rfl | rfl) h <;> cases h
  case inl =>
    exact ⟨rfl, rfl, fun _ => rfl, fun _ => rfl, fun h => absurd rfl h, fun _ => ⟨rfl, rfl⟩, fun _ => ⟨rfl, rfl⟩⟩
  case inr.inl =>
    exact ⟨rfl, rfl, fun _ => rfl, fun _ => rfl, fun _ => rfl, fun h => absurd rfl h, fun _ => ⟨rfl, rfl⟩⟩
  case inr.inr =>
    exact ⟨rfl, rfl, fun _ => rfl, fun _ => rfl, fun _ => rfl, fun _ => ⟨rfl, rfl⟩, fun h => absurd rfl h⟩

/-- Settles O56: every command overwrites STATUS and none reads it. -/
theorem noCommandReadsEcode : Obligations.NoCommandReadsEcode := by
  unfold Obligations.NoCommandReadsEcode
  intro i s w
  cases i <;> rfl

/-! ### What a command depends on -/

/-- IN_LEN and the bytes below it decide the input. -/
theorem State.input_congr {s u : State} (hlen : s.inLen = u.inLen)
    (hbytes : ∀ i, i < s.inLen → s.byteIn i = u.byteIn i) : s.input = u.input := by
  rw [State.input, State.input, ← hlen]
  exact List.map_congr_left fun i hi => hbytes i (List.mem_range.1 hi)

/-- NNODES and the entries below it decide what ASSIGN reads. -/
theorem State.validNodes_congr {s u : State} (hlen : s.nnodes = u.nnodes)
    (hnodes : ∀ i, i < s.nnodes → s.node[i]? = u.node[i]?) : s.validNodes = u.validNodes := by
  refine List.ext_getElem? fun i => ?_
  rw [State.validNodes, State.validNodes, ← hlen, List.getElem?_take, List.getElem?_take]
  split
  · exact hnodes i ‹_›
  · rfl

/-- Settles O54. -/
theorem tableCommandsReadOnlyTheirOperands : Obligations.TableCommandsReadOnlyTheirOperands := by
  unfold Obligations.TableCommandsReadOnlyTheirOperands
  intro s u
  refine ⟨fun hlen hbytes => ?_, fun hfreq => ?_, fun hlen hnodes => ?_⟩
  · exact ⟨_, _, exec_count s, exec_count u, congrArg freqOf (State.input_congr hlen hbytes), rfl⟩
  · have hbuild := congrArg build hfreq
    exact ⟨_, _, exec_build s, exec_build u, congrArg List.length hbuild, hbuild, rfl⟩
  · have hassign := congrArg assign (State.validNodes_congr hlen hnodes)
    exact ⟨_, _, exec_assign s, exec_assign u, hassign, congrArg inverse hassign, rfl⟩

/-- A delivered byte is that byte of the result. -/
theorem State.byteOut_finish {e : Ending} {s : State} {j : Nat} (h : j < e.bytes.length) :
    (s.finish e).byteOut j = e.bytes[j] := by
  simp [State.byteOut, Memory.read?_ofBytesFrom, h]

/-- Two blocks that end a command alike hold the same outcome and the same output. -/
theorem State.finish_congr {e d : Ending} (s u : State) (h : e = d) :
    (s.finish e).status = (u.finish d).status ∧ (s.finish e).outLen = (u.finish d).outLen ∧
      ∀ j, j < (s.finish e).outLen → (s.finish e).byteOut j = (u.finish d).byteOut j := by
  subst h
  refine ⟨rfl, rfl, fun j hj => ?_⟩
  rw [State.byteOut_finish hj, State.byteOut_finish hj]

theorem State.packPhase_congr {s u : State} (hcaps : s.caps = u.caps) (hinput : s.input = u.input)
    (hcode : s.code = u.code) :
    s.packPhase.status = u.packPhase.status ∧ s.packPhase.outLen = u.packPhase.outLen ∧
      ∀ j, j < s.packPhase.outLen → s.packPhase.byteOut j = u.packPhase.byteOut j :=
  State.finish_congr s u (by rw [hcaps, hinput, hcode])

theorem State.unpackPhase_congr {s u : State} (hcaps : s.caps = u.caps) (hinput : s.input = u.input)
    (hrcode : s.rcode = u.rcode) :
    s.unpackPhase.status = u.unpackPhase.status ∧ s.unpackPhase.outLen = u.unpackPhase.outLen ∧
      ∀ j, j < s.unpackPhase.outLen → s.unpackPhase.byteOut j = u.unpackPhase.byteOut j :=
  State.finish_congr s u (by rw [hcaps, hinput, hrcode])

/-- The phases of ENCODE before PACK's (R105). -/
def State.tablePhases (s : State) : State := s.countPhase.buildPhase.assignPhase

theorem exec_encode_eq_packPhase (s : State) : exec .encode s = .next s.tablePhases.packPhase := rfl

@[simp] theorem State.tablePhases_caps (s : State) : s.tablePhases.caps = s.caps := rfl
@[simp] theorem State.tablePhases_input (s : State) : s.tablePhases.input = s.input := rfl
@[simp] theorem State.tablePhases_freq (s : State) : s.tablePhases.freq = freqOf s.input := rfl
@[simp] theorem State.tablePhases_node (s : State) : s.tablePhases.node = build (freqOf s.input) := rfl
@[simp] theorem State.tablePhases_nnodes (s : State) :
    s.tablePhases.nnodes = (build (freqOf s.input)).length := rfl

theorem State.buildPhase_validNodes (s : State) : s.buildPhase.validNodes = build s.freq := by
  rw [State.validNodes, State.buildPhase_nnodes, State.buildPhase_node, List.take_length]

@[simp] theorem State.tablePhases_code (s : State) : s.tablePhases.code = codesFor s.input := by
  rw [State.tablePhases, State.assignPhase_code, State.buildPhase_validNodes]; rfl

@[simp] theorem State.tablePhases_rcode (s : State) : s.tablePhases.rcode = inverse (codesFor s.input) := by
  rw [← State.tablePhases_code]; rfl

/-- Settles O55: PACK, UNPACK and DECODE end as their operands say, and ENCODE packs after phases whose tables the
input alone decides. -/
theorem streamCommandsReadOnlyTheirOperands : Obligations.StreamCommandsReadOnlyTheirOperands := by
  unfold Obligations.StreamCommandsReadOnlyTheirOperands
  intro i s u hcaps hlen hbytes hi
  have hinput := State.input_congr hlen hbytes
  rcases hi with ⟨rfl, hcode⟩ | ⟨hi, hrcode⟩ | rfl
  · obtain ⟨hstatus, houtLen, hbyte⟩ := State.packPhase_congr hcaps hinput hcode
    exact ⟨_, _, exec_pack s, exec_pack u, hstatus, houtLen, hbyte, nofun⟩
  · obtain ⟨hstatus, houtLen, hbyte⟩ := State.unpackPhase_congr hcaps hinput hrcode
    rcases hi with rfl | rfl
    · exact ⟨_, _, exec_unpack s, exec_unpack u, hstatus, houtLen, hbyte, nofun⟩
    · exact ⟨_, _, exec_decode s, exec_decode u, hstatus, houtLen, hbyte, nofun⟩
  · obtain ⟨hstatus, houtLen, hbyte⟩ :=
      State.packPhase_congr (s := s.tablePhases) (u := u.tablePhases) hcaps hinput (by simp [hinput])
    refine ⟨_, _, exec_encode_eq_packPhase s, exec_encode_eq_packPhase u, hstatus, houtLen, hbyte, fun _ => ?_⟩
    simp [hinput]

end Sys2Proof.Machine
end

section
/-! PROOFS. Bits and bytes correspond (R7, R34): the bits of `val` and of `bin8`, and the two conversions between
bit-strings and byte sequences. -/

namespace Sys2Proof.Machine

/-- R7: bit k of `val(B)` is the k-th bit from the right end of B. -/
theorem testBit_val (b : Bits) (k : Nat) : (val b).testBit k = (b.reverse[k]?).getD false := by
  induction b using List.reverseRecOn generalizing k with
  | nil => simp [val, valFrom]
  | append_singleton b x ih =>
    rw [val_append_singleton, ← Nat.bit_val]
    cases k with
    | zero => simp
    | succ k => rw [Nat.testBit_bit_succ, ih]; simp

/-- R7: `bin8(v)[k]` is bit 7-k of v. -/
theorem bin8_getElem? (v : Byte) {k : Nat} (hk : k < 8) : (bin8 v)[k]? = some (v.getLsbD (7 - k)) := by
  match k, hk with
  | 0, _ | 1, _ | 2, _ | 3, _ | 4, _ | 5, _ | 6, _ | 7, _ => rfl

theorem val_bin8 (v : Byte) : val (bin8 v) = v.toNat := by
  refine Nat.eq_of_testBit_eq fun k => ?_
  rw [testBit_val, BitVec.testBit_toNat]
  by_cases hk : k < 8
  · have h7 : 7 - (7 - k) = k := by omega
    rw [List.getElem?_reverse (by simpa using hk), bin8_length, bin8_getElem? v (by omega), h7]
    rfl
  · have hk' := Nat.not_lt.1 hk
    rw [List.getElem?_eq_none (by simpa using hk'), BitVec.getLsbD_of_ge v k hk']
    rfl

/-- Eight bits are the bits of the byte they denote. -/
theorem bin8_ofNat_val {b : Bits} (h : b.length = 8) : bin8 (BitVec.ofNat 8 (val b)) = b := by
  refine List.ext_getElem (by simp [h]) fun k hk hk' => ?_
  have hlt : k < 8 := hk
  have h7 : 7 - (7 - k) = k := by omega
  rw [← Option.some_inj, ← List.getElem?_eq_getElem, bin8_getElem? _ hlt, BitVec.getLsbD_ofNat, testBit_val,
    List.getElem?_reverse (by omega), h, h7]
  simp [hk', Nat.lt_succ_of_le (Nat.sub_le 7 k)]

/-- R34: the first bit of the stream is the most significant bit of the first byte. -/
theorem bitsOfBytes_getElem? (y : List Byte) {k : Nat} (hk : k < 8 * y.length) :
    ∃ v, y[k / 8]? = some v ∧ (bitsOfBytes y)[k]? = some (v.getLsbD (7 - k % 8)) := by
  induction y generalizing k with
  | nil => simp at hk
  | cons v rest ih =>
    by_cases hlt : k < 8
    · refine ⟨v, by simp [Nat.div_eq_of_lt hlt], ?_⟩
      rw [bitsOfBytes_cons, List.getElem?_append_left hlt, bin8_getElem? v hlt, Nat.mod_eq_of_lt hlt]
    · obtain ⟨j, rfl⟩ := Nat.exists_eq_add_of_le (Nat.not_lt.1 hlt)
      obtain ⟨u, hu, hbit⟩ := ih (k := j) (by rw [List.length_cons] at hk; omega)
      refine ⟨u, ?_, ?_⟩
      · rwa [Nat.add_div_left j (by decide), List.getElem?_cons_succ]
      · rw [bitsOfBytes_cons, List.getElem?_append_right (by simp), bin8_length, Nat.add_sub_cancel_left, hbit,
          Nat.add_mod_left]

theorem bitsOfBytes_takeBytes (n : Nat) {b : Bits} (h : b.length = 8 * n) : bitsOfBytes (takeBytes n b) = b := by
  induction n generalizing b with
  | zero => exact (List.eq_nil_of_length_eq_zero h).symm
  | succ m ih =>
    have hdrop : (b.drop 8).length = 8 * m := by rw [List.length_drop]; omega
    rw [takeBytes, bitsOfBytes_cons, bin8_ofNat_val (by rw [List.length_take]; omega), ih hdrop,
      List.take_append_drop]

theorem takeBytes_bitsOfBytes (y : List Byte) : takeBytes y.length (bitsOfBytes y) = y := by
  induction y with
  | nil => rfl
  | cons v rest ih =>
    rw [List.length_cons, bitsOfBytes_cons, takeBytes, List.take_left' (bin8_length v),
      List.drop_left' (bin8_length v), ih, val_bin8, BitVec.ofNat_toNat, BitVec.setWidth_eq]

/-- R34: whole bytes as bits and grouped again are the same bytes. -/
@[simp] theorem bytesOfBits_bitsOfBytes (y : List Byte) : bytesOfBits (bitsOfBytes y) = y := by
  rw [bytesOfBits, bitsOfBytes_length, Nat.mul_div_cancel_left _ (by decide), takeBytes_bitsOfBytes]

/-- R34: a bit-string of whole bytes, grouped and expanded again, is the same bit-string. -/
theorem bitsOfBytes_bytesOfBits {b : Bits} (h : b.length % 8 = 0) : bitsOfBytes (bytesOfBits b) = b :=
  bitsOfBytes_takeBytes _ (by omega)

/-- Settles O27. -/
theorem bitsAndBytesCorrespond : Obligations.BitsAndBytesCorrespond := by
  unfold Obligations.BitsAndBytesCorrespond
  exact ⟨fun y _ => bitsOfBytes_getElem? y, fun b h => ⟨bitsOfBytes_bytesOfBits h, bytesOfBits_length b⟩,
    bytesOfBits_bitsOfBytes, val_bin8⟩

end Sys2Proof.Machine
end

section
/-! PROOFS. The host's accesses to the six spaces (R31 to R39): which addresses name an element, what a write of each
kind of element does, and that an orderly host never meets a stop. -/

namespace Sys2Proof.Machine

/-! ### Idling -/

/-- Settles O3. -/
theorem idleBlockDoesNothing : Obligations.IdleBlockDoesNothing := by
  unfold Obligations.IdleBlockDoesNothing
  exact fun _ => step_of_pending_nil

/-! ### Which address names which element -/

section
variable {c : Capacities} {a : Addr}

/-- R31, R37: an address names an element exactly when its index is below the number of entries of its space. -/
theorem isSome_resolve (c : Capacities) (a : Addr) : (resolve c a).isSome = a.wf c := by
  obtain ⟨space, index⟩ := a
  rw [Bool.eq_iff_iff]
  match space with
  | 0 => match index with
    | 0 | 1 | 2 | 3 | 4 => exact Iff.rfl
    | n + 5 => simp [resolve, Addr.wf, spaceEntries]
  | 1 | 2 | 3 | 4 | 5 => simp [resolve, Addr.wf, spaceEntries]
  | n + 6 => simp [resolve, Addr.wf, spaceEntries]

theorem exists_resolve_iff : (∃ e, resolve c a = some e) ↔ a.wf c = true := by
  rw [← isSome_resolve, Option.isSome_iff_exists]

theorem resolve_eq_none_iff : resolve c a = none ↔ a.wf c = false := by
  rw [← isSome_resolve, Option.isSome_eq_false_iff, Option.isNone_iff_eq_none]

/-- The (space, index) an element stands at in the table of R31. -/
def Element.addr (e : Element) : Addr :=
  match e with
  | .cmd => cmdAddr
  | .status => ⟨0, 1⟩
  | .inLen => ⟨0, 2⟩
  | .outLen => ⟨0, 3⟩
  | .nnodes => ⟨0, 4⟩
  | .inbuf i => ⟨1, i⟩
  | .outbuf j => ⟨2, j⟩
  | .freq b => ⟨3, b⟩
  | .node i => ⟨4, i⟩
  | .code b => ⟨5, b⟩

/-- An address that names an element is that element's place in the table of R31. -/
theorem addr_of_resolve {e : Element} (h : resolve c a = some e) : a = e.addr := by
  obtain ⟨space, index⟩ := a
  match space with
  | 0 => match index with
    | 0 | 1 | 2 | 3 | 4 => cases h; rfl
    | n + 5 => simp [resolve] at h
  | 1 | 2 | 3 | 4 | 5 =>
    simp only [resolve, Option.ite_none_right_eq_some, Option.dite_none_right_eq_some] at h
    obtain ⟨_, h⟩ := h
    cases h; rfl
  | n + 6 => simp [resolve] at h

end

/-! ### An address that names no element -/

theorem hostRead_outOfRange {s : State} {a : Addr} (h : a.wf s.caps = false) :
    hostRead a s = .refused (.hostAccessOutOfRange a.space a.index) := by
  simp [hostRead, resolve_eq_none_iff.2 h]

theorem hostWrite_outOfRange {s : State} {a : Addr} (h : a.wf s.caps = false) (v : Nat) :
    hostWrite a v s = .refused (.hostAccessOutOfRange a.space a.index) := by
  simp [hostWrite, resolve_eq_none_iff.2 h]

/-- Settles O14. -/
theorem outOfRangeAccessIsRefused : Obligations.OutOfRangeAccessIsRefused := by
  unfold Obligations.OutOfRangeAccessIsRefused
  exact fun s a => ⟨exists_resolve_iff.symm, fun h => ⟨hostRead_outOfRange h, hostWrite_outOfRange h⟩⟩

/-! ### What a host access to each kind of element does -/

section
variable {s : State} {a : Addr} {v : Nat}

theorem hostRead_completes (h : a.wf s.caps = true) : ∃ t, hostRead a s = .next t := by
  obtain ⟨e, he⟩ := exists_resolve_iff.2 h
  exact ⟨_, hostRead_of_resolve he⟩

/-- R25: a write of a byte to INBUF stores it. -/
theorem hostWrite_inbuf {i : Nat} (hi : i < s.caps.maxIn) (b : Byte) :
    hostWrite ⟨1, i⟩ b.toNat s = .next ((s.writeByteIn i b).respond .written) := by
  simp [hostWrite, resolve_inbuf_of_lt hi, b.isLt]

/-- R38: a write to any element but CMD, IN_LEN and the bytes of INBUF has no effect. -/
theorem hostWrite_readOnly (h : a.wf s.caps = true) (hin : a.space ≠ 1) (hcmd : a ≠ cmdAddr) (hlen : a ≠ ⟨0, 2⟩) :
    hostWrite a v s = .next (s.respond .written) := by
  obtain ⟨e, he⟩ := exists_resolve_iff.2 h
  obtain rfl := addr_of_resolve he
  cases e
  case cmd => exact absurd rfl hcmd
  case inLen => exact absurd rfl hlen
  case inbuf => exact absurd rfl hin
  all_goals simp [hostWrite, he]

/-- Assumption 9: CMD and the bytes of INBUF take no number above 255. -/
theorem hostWrite_tooWide (h : a.wf s.caps = true) (hbyte : a = cmdAddr ∨ a.space = 1) (hv : 256 ≤ v) :
    hostWrite a v s = .refused (.hostValueTooWide a.space a.index v) := by
  obtain ⟨e, he⟩ := exists_resolve_iff.2 h
  obtain rfl := addr_of_resolve he
  cases e
  case cmd => simp [hostWrite, he, hv]
  case inbuf => simp [hostWrite, he, hv]
  all_goals simp [Element.addr, cmdAddr] at hbyte

theorem hostWrite_completes (h : a.wf s.caps = true) (hv : a = cmdAddr ∨ a.space = 1 → v < 256) :
    ∃ t, hostWrite a v s = .next t := by
  obtain ⟨e, he⟩ := exists_resolve_iff.2 h
  obtain rfl := addr_of_resolve he
  cases e
  case cmd => simpa [hostWrite, he, hv (.inl rfl)] using commandWrite_completes _ s
  case inbuf => simp [hostWrite, he, hv (.inr rfl)]
  all_goals simp [hostWrite, he]

theorem hostRead_refused_iff : (∃ r, hostRead a s = .refused r) ↔ a.wf s.caps = false := by
  cases h : a.wf s.caps with
  | false => exact iff_of_true ⟨_, hostRead_outOfRange h⟩ rfl
  | true =>
    obtain ⟨t, ht⟩ := hostRead_completes h
    simp [ht]

theorem hostWrite_refused_iff : (∃ r, hostWrite a v s = .refused r) ↔
    a.wf s.caps = false ∨ ((a = cmdAddr ∨ a.space = 1) ∧ 256 ≤ v) := by
  cases h : a.wf s.caps with
  | false => exact iff_of_true ⟨_, hostWrite_outOfRange h v⟩ (.inl rfl)
  | true =>
    by_cases hwide : (a = cmdAddr ∨ a.space = 1) ∧ 256 ≤ v
    · exact iff_of_true ⟨_, hostWrite_tooWide h hwide.1 hwide.2⟩ (.inr hwide)
    · obtain ⟨t, ht⟩ := hostWrite_completes h fun hbyte => Nat.not_le.1 fun hv => hwide ⟨hbyte, hv⟩
      simp [ht, hwide]

end

/-- Settles O11. -/
theorem hostAccessesHaveNoOtherEffect : Obligations.HostAccessesHaveNoOtherEffect := by
  unfold Obligations.HostAccessesHaveNoOtherEffect
  refine ⟨fun s a h => ?_, fun s i b hi => ?_, fun s v => ?_, fun s a v => hostWrite_readOnly⟩
  · obtain ⟨e, he⟩ := exists_resolve_iff.2 h
    exact ⟨e, he, hostRead_of_resolve he, hostRead_of_resolve he⟩
  · refine ⟨_, hostWrite_inbuf hi b, rfl, ?_, fun j hj => ?_⟩
    · exact (State.byteIn_writeByteIn i i b s).trans (if_pos rfl)
    · exact (State.byteIn_writeByteIn i j b s).trans (if_neg hj)
  · exact ⟨_, inLenIsWrittenByTheHostOnly.1 s v, rfl⟩

/-- Settles O60. -/
theorem refusedExactlyOutOfRangeOrTooWide : Obligations.RefusedExactlyOutOfRangeOrTooWide := by
  unfold Obligations.RefusedExactlyOutOfRangeOrTooWide
  exact fun s a v => ⟨hostRead_refused_iff, hostWrite_refused_iff, hostWrite_tooWide,
    fun h => ⟨hostRead_completes h, hostWrite_completes h⟩⟩

/-! ### An orderly host -/

section
variable {s t : State}

theorem valueFits_iff {a : Addr} {v : Nat} : valueFits a v = true ↔ (a = cmdAddr ∨ a.space = 1 → v < 256) := by
  obtain ⟨space, index⟩ := a
  simp only [valueFits, cmdAddr, Addr.mk.injEq, or_comm (a := space = 1)]
  split <;> simp_all

/-- R37: every event the spec gives a meaning to is taken. -/
theorem takeEvent_completes {e : Event} (h : e.wf s.caps = true) : ∃ t, takeEvent e s = .next t := by
  match e, h with
  | .txn (.read a), h => exact hostRead_completes h
  | .txn (.write a v), h =>
    obtain ⟨haddr, hfits⟩ := Bool.and_eq_true_iff.1 h
    exact hostWrite_completes haddr (valueFits_iff.1 hfits)
  | .reset, _ => exact ⟨_, rfl⟩

/-- The capacities and the events still to come: what no transaction, command or reset changes. -/
def State.hostSide (s : State) : Capacities × List Event := (s.caps, s.pending)

theorem exec_hostSide {i : Instr} (h : exec i s = .next t) : t.hostSide = s.hostSide := by
  cases i <;> cases h <;> rfl

theorem commandWrite_hostSide {w : Byte} (h : commandWrite w s = .next t) : t.hostSide = s.hostSide := by
  rcases commandWrite_next h with ⟨i, u, -, he, rfl⟩ | rfl
  · exact (exec_hostSide he :)
  · rfl

theorem hostWrite_hostSide {a : Addr} {v : Nat} (h : hostWrite a v s = .next t) : t.hostSide = s.hostSide := by
  rcases hostWrite_next h with ⟨-, -, hc⟩ | ⟨i, -, -, rfl⟩ | ⟨-, rfl⟩ | rfl
  · exact commandWrite_hostSide hc
  · rfl
  · simp [State.hostSide]
  · rfl

theorem takeEvent_hostSide {e : Event} (h : takeEvent e s = .next t) : t.hostSide = s.hostSide := by
  match e, h with
  | .txn (.read _), h =>
    obtain ⟨_, -, rfl⟩ := hostRead_next h
    rfl
  | .txn (.write _ _), h => exact hostWrite_hostSide h
  | .reset, h => cases h; rfl

end

/-- Settles O15: a well-formed event is taken, and taking it leaves the capacities and the events behind it alone. -/
theorem orderlyHostNeverStops : Obligations.OrderlyHostNeverStops := by
  unfold Obligations.OrderlyHostNeverStops
  intro s horderly
  cases hp : s.pending with
  | nil => exact ⟨s, step_of_pending_nil hp, horderly, rfl⟩
  | cons e rest =>
    rw [State.OrderlyHost, hp] at horderly
    obtain ⟨he, hrest⟩ := List.forall_mem_cons.1 horderly
    obtain ⟨t, ht⟩ := takeEvent_completes (s := { s with pending := rest }) he
    obtain ⟨hcaps, hpending⟩ := Prod.mk.inj (takeEvent_hostSide ht)
    refine ⟨t, (step_of_pending_cons hp).trans ht, ?_, hcaps⟩
    rw [State.OrderlyHost, hcaps, hpending]
    exact hrest

end Sys2Proof.Machine
end

section
/-! PROOFS. The layouts of the table entries (R57, R58) and the host's reads of FREQ, NODE and CODE. -/

namespace Sys2Proof.Machine

/-! ### The upper field of two -/

theorem extractLsb'_append_add {v w : Nat} (x : BitVec v) (y : BitVec w) (k n : Nat) :
    (x ++ y).extractLsb' (w + k) n = x.extractLsb' k n := by
  rw [BitVec.extractLsb'_append_eq_of_le (Nat.le_add_right w k), Nat.add_sub_cancel_left]

theorem getLsbD_append_add {v w : Nat} (x : BitVec v) (y : BitVec w) (k : Nat) :
    (x ++ y).getLsbD (w + k) = x.getLsbD k := by
  simp [BitVec.getLsbD_append]

/-! ### The layout of a NODE entry -/

/-- The five fields of an entry of NODE in the order of R57: LEAF, SYM, LEFT, RIGHT, FREQ. -/
def nodeFields {w : Nat} (leaf : BitVec 1) (sym : Byte) (left right : BitVec 9) (freq : BitVec w) :
    BitVec (1 + 8 + 9 + 9 + w) := leaf ++ sym ++ left ++ right ++ freq

theorem nodeEntry_leaf (w : Nat) (sym : Byte) (f : Nat) :
    nodeEntry w (.leaf sym f) = nodeFields 1#1 sym 0#9 0#9 (BitVec.ofNat w f) := rfl

theorem nodeEntry_internal (w l r f : Nat) :
    nodeEntry w (.internal l r f) = nodeFields 0#1 0#8 (BitVec.ofNat 9 l) (BitVec.ofNat 9 r) (BitVec.ofNat w f) := rfl

section
variable {w : Nat} (leaf : BitVec 1) (sym : Byte) (left right : BitVec 9) (freq : BitVec w)

@[simp] theorem nodeFields_freq : (nodeFields leaf sym left right freq).extractLsb' 0 w = freq :=
  BitVec.extractLsb'_append_eq_right

@[simp] theorem nodeFields_right : (nodeFields leaf sym left right freq).extractLsb' w 9 = right :=
  (extractLsb'_append_add _ freq 0 9).trans BitVec.extractLsb'_append_eq_right

@[simp] theorem nodeFields_left : (nodeFields leaf sym left right freq).extractLsb' (w + 9) 9 = left :=
  calc (nodeFields leaf sym left right freq).extractLsb' (w + 9) 9
    _ = (leaf ++ sym ++ left ++ right).extractLsb' 9 9 := extractLsb'_append_add _ freq 9 9
    _ = (leaf ++ sym ++ left).extractLsb' 0 9 := extractLsb'_append_add _ right 0 9
    _ = left := BitVec.extractLsb'_append_eq_right

@[simp] theorem nodeFields_sym : (nodeFields leaf sym left right freq).extractLsb' (w + 18) 8 = sym :=
  calc (nodeFields leaf sym left right freq).extractLsb' (w + 18) 8
    _ = (leaf ++ sym ++ left ++ right).extractLsb' 18 8 := extractLsb'_append_add _ freq 18 8
    _ = (leaf ++ sym ++ left).extractLsb' 9 8 := extractLsb'_append_add _ right 9 8
    _ = (leaf ++ sym).extractLsb' 0 8 := extractLsb'_append_add _ left 0 8
    _ = sym := BitVec.extractLsb'_append_eq_right

@[simp] theorem nodeFields_leaf : (nodeFields leaf sym left right freq).getLsbD (w + 26) = leaf.getLsbD 0 :=
  calc (nodeFields leaf sym left right freq).getLsbD (w + 26)
    _ = (leaf ++ sym ++ left ++ right).getLsbD 26 := getLsbD_append_add _ freq 26
    _ = (leaf ++ sym ++ left).getLsbD 17 := getLsbD_append_add _ right 17
    _ = (leaf ++ sym).getLsbD 8 := getLsbD_append_add _ left 8
    _ = leaf.getLsbD 0 := getLsbD_append_add _ sym 0

end

/-! ### The layout of a CODE entry -/

/-- R58: LEN stands above the 255 bits of BITS. -/
theorem codeEntry_len (p : Bits) : (codeEntry (some p)).extractLsb' 255 8 = BitVec.ofNat 8 p.length :=
  BitVec.extractLsb'_append_eq_left

/-- R58: the code is left-aligned in BITS, its first bit at 254, with zeros beyond it. -/
theorem codeEntry_bit {p : Bits} (hp : p.length ≤ 255) {k : Nat} (hk : k < 255) :
    (codeEntry (some p)).getLsbD (254 - k) = (p[k]?).getD false := by
  have hlow : 254 - k < 255 := by omega
  have hbit : (codeEntry (some p)).getLsbD (254 - k) =
      (decide (255 - p.length ≤ 254 - k) && (val p).testBit (254 - k - (255 - p.length))) := by
    rw [codeEntry, BitVec.getLsbD_append, if_pos hlow, BitVec.getLsbD_ofNat, Nat.testBit_mul_two_pow,
      decide_eq_true hlow, Bool.true_and]
  rw [hbit, testBit_val]
  by_cases hkp : k < p.length
  · have hin : 255 - p.length ≤ 254 - k := by omega
    have hrev : p.length - 1 - (254 - k - (255 - p.length)) = k := by omega
    rw [List.getElem?_reverse (by omega), hrev]
    simp [hin]
  · have hout : ¬ 255 - p.length ≤ 254 - k := by omega
    simp [hout, Nat.le_of_not_lt hkp]

/-! ### The host's reads of the tables -/

/-- The entry of a byte value in space FREQ. -/
theorem resolve_freq (c : Capacities) (b : Byte) : resolve c ⟨3, b.toNat⟩ = some (.freq b.toFin) :=
  dif_pos b.isLt

/-- The entry of a byte value in space CODE. -/
theorem resolve_code (c : Capacities) (b : Byte) : resolve c ⟨5, b.toNat⟩ = some (.code b.toFin) :=
  dif_pos b.isLt

theorem resolve_node_of_lt {c : Capacities} {i : Nat} (h : i < 511) : resolve c ⟨4, i⟩ = some (.node i) := if_pos h

theorem State.readElement_node {s : State} {i : Nat} {n : Node} (h : s.validNodes[i]? = some n) :
    s.readElement (.node i) = (nodeEntry s.caps.cntW n).toNat := by
  simp [State.readElement, h]

/-- R58: a host read of an entry of CODE. -/
theorem hostRead_code (s : State) (b : Byte) :
    hostRead ⟨5, b.toNat⟩ s = .next { s with response := some (.data (codeEntry (codeAt s.code b)).toNat) } :=
  hostRead_of_resolve (resolve_code s.caps b)

/-- R19: a host read of an entry of FREQ. -/
theorem hostRead_freq (s : State) (b : Byte) :
    hostRead ⟨3, b.toNat⟩ s = .next { s with response := some (.data (countAt s.freq b)) } :=
  hostRead_of_resolve (resolve_freq s.caps b)

/-- R57: a host read of a valid entry of NODE. -/
theorem hostRead_node {s : State} {i : Nat} {n : Node} (hi : i < 511) (h : s.validNodes[i]? = some n) :
    hostRead ⟨4, i⟩ s = .next { s with response := some (.data (nodeEntry s.caps.cntW n).toNat) } := by
  rw [hostRead_of_resolve (resolve_node_of_lt hi), State.readElement_node h]

/-- Settles O16. -/
theorem tableEntriesHaveTheSpecsLayout : Obligations.TableEntriesHaveTheSpecsLayout := by
  unfold Obligations.TableEntriesHaveTheSpecsLayout
  refine ⟨fun w sym f => ?_, fun w l r f => ?_, BitVec.zero_append_zero,
    fun p hp => ⟨codeEntry_len p, fun k => codeEntry_bit hp⟩, hostRead_code, hostRead_freq, fun s i n => hostRead_node⟩
  · simp [nodeEntry_leaf]
  · simp [nodeEntry_internal]

end Sys2Proof.Machine
end

section
/-! PROOFS. The command words (R45, R47): decoding and encoding agree, which words are legal, and what an illegal one
does (R49, R122). -/

namespace Sys2Proof.Machine

/-! ### The fields of a command word -/

/-- R47: a command word is its field RSV above its field OPC. -/
theorem toNat_eq_rsvField_opcField (w : Byte) : w.toNat = 16 * (rsvField w).toNat + (opcField w).toNat := by
  have hw := w.isLt
  simp only [rsvField, opcField, BitVec.extractLsb'_toNat, Nat.shiftRight_eq_div_pow]
  omega

theorem eq_of_fields {v w : Byte} (hrsv : rsvField v = rsvField w) (hopc : opcField v = opcField w) : v = w := by
  rw [← BitVec.toNat_inj, toNat_eq_rsvField_opcField v, hrsv, hopc, ← toNat_eq_rsvField_opcField w]

/-- R47: a word is a command exactly when RSV is 0 and OPC is assigned. -/
theorem decode_eq_ok_iff {w : Byte} {i : Instr} :
    decode w = .ok i ↔ rsvField w = 0#4 ∧ instrOfOpc (opcField w) = some i := by
  by_cases hrsv : rsvField w = 0#4
  · cases h : instrOfOpc (opcField w) <;> simp [decode, hrsv, h]
  · simp [decode, hrsv]

@[simp] theorem rsvField_encode (i : Instr) : rsvField (encode i) = 0#4 := by cases i <;> rfl

/-- The column OPC of R45, read in both directions. -/
theorem instrOfOpc_eq_some_iff {opc : BitVec 4} {i : Instr} : instrOfOpc opc = some i ↔ opcField (encode i) = opc := by
  constructor
  · unfold instrOfOpc
    split <;> rintro ⟨⟩
    all_goals exact BitVec.eq_of_toNat_eq (Eq.symm ‹_›)
  · rintro rfl
    cases i <;> rfl

theorem decode_eq_ok_iff_encode {w : Byte} {i : Instr} : decode w = .ok i ↔ encode i = w := by
  rw [decode_eq_ok_iff, instrOfOpc_eq_some_iff]
  constructor
  · rintro ⟨hrsv, hopc⟩
    exact eq_of_fields ((rsvField_encode i).trans hrsv.symm) hopc
  · rintro rfl
    exact ⟨rsvField_encode i, rfl⟩

/-- Settles O8. -/
theorem decodeEncodeAgree : Obligations.DecodeEncodeAgree := by
  unfold Obligations.DecodeEncodeAgree
  exact fun _ _ => decode_eq_ok_iff_encode

/-- Settles O6: RSV is 1 in 0x17 and 8 in 0x87. -/
theorem commandWordsDecode : Obligations.CommandWordsDecode := by
  unfold Obligations.CommandWordsDecode
  exact ⟨decode_clear, decode_count, decode_build, decode_assign, decode_pack, decode_unpack, decode_encode_command,
    decode_decode_command, rfl, rfl⟩

/-! ### Legal and illegal words -/

/-- The column OPC of R45 assigns 1 to 8. -/
theorem exists_instrOfOpc_iff (opc : BitVec 4) :
    (∃ i, instrOfOpc opc = some i) ↔ 1 ≤ opc.toNat ∧ opc.toNat ≤ 8 := by
  rw [← Option.isSome_iff_exists]
  revert opc
  decide

theorem rsvField_of_decode_eq_ok {w : Byte} {i : Instr} (h : decode w = .ok i) : rsvField w = 0#4 :=
  (decode_eq_ok_iff.1 h).1

theorem exists_decode_eq_ok_iff_of_rsvField {w : Byte} (h : rsvField w = 0#4) :
    (∃ i, decode w = .ok i) ↔ 1 ≤ (opcField w).toNat ∧ (opcField w).toNat ≤ 8 := by
  simp [decode_eq_ok_iff, h, exists_instrOfOpc_iff]

/-- R49: the words that are commands. -/
theorem exists_decode_eq_ok_iff {w : Byte} : (∃ i, decode w = .ok i) ↔ 1 ≤ w.toNat ∧ w.toNat ≤ 8 := by
  have hw := toNat_eq_rsvField_opcField w
  by_cases hrsv : rsvField w = 0#4
  · rw [hrsv] at hw
    rw [exists_decode_eq_ok_iff_of_rsvField hrsv, hw]
    simp
  · have hpos : (rsvField w).toNat ≠ 0 := fun h => hrsv (BitVec.eq_of_toNat_eq h)
    exact iff_of_false (fun ⟨_, h⟩ => hrsv (rsvField_of_decode_eq_ok h)) (by omega)

/-- Settles O7. -/
theorem legalWordsAreOneToEight : Obligations.LegalWordsAreOneToEight := by
  unfold Obligations.LegalWordsAreOneToEight
  exact fun w => ⟨exists_decode_eq_ok_iff, fun hrsv _ h => hrsv (rsvField_of_decode_eq_ok h),
    exists_decode_eq_ok_iff_of_rsvField⟩

/-- R122: a write of a word that encodes no command is reported and has no other effect. -/
theorem commandWrite_of_illegal {w : Byte} (h : ¬ ∃ i, decode w = .ok i) (s : State) :
    commandWrite w s = .next (s.illegalCommand.respond (.outcome s.illegalCommand.ecode)) := by
  unfold commandWrite
  split
  · exact absurd ⟨_, ‹_›⟩ h
  · rfl

/-- Settles O9: such a word is no command, and reporting it writes STATUS and the response. -/
theorem illegalWordChangesOnlyEcode : Obligations.IllegalWordChangesOnlyEcode := by
  unfold Obligations.IllegalWordChangesOnlyEcode
  intro s w hw
  have hword : ¬ ∃ i, decode w = .ok i := by rw [exists_decode_eq_ok_iff]; omega
  rw [hostWrite_cmdAddr, commandWrite_of_illegal hword]
  rfl

end Sys2Proof.Machine
end

section
/-! PROOFS. COUNT and the frequency table (R61, R63): a count is a number of input indices, and the counts together are
the input. -/

namespace Sys2Proof.Machine

/-- R61: a count of the input is the number of indices below IN_LEN whose byte is the one counted. -/
theorem State.input_count (s : State) (b : Byte) :
    s.input.count b = ((List.range s.inLen).filter fun i => decide (s.byteIn i = b)).length := by
  rw [State.input, List.count_eq_countP, List.countP_map, List.countP_eq_length_filter]
  rfl

/-- Settles O17. -/
theorem countCountsTheInput : Obligations.CountCountsTheInput := by
  unfold Obligations.CountCountsTheInput
  refine ⟨rfl, fun s => ⟨s.countPhase, exec_count s, State.setEcode_ecode .ok _, fun b => ?_, rfl⟩⟩
  rw [State.countPhase_freq, countAt_freqOf, State.input_count]

/-- R63: the byte values with a count above 0 are the distinct byte values counted. -/
theorem presentCount_freqOf (data : List Byte) : presentCount (freqOf data) = data.toFinset.card := by
  have hbytes : (presentBytes (freqOf data)).toFinset = data.toFinset := by
    ext b
    simp [List.count_pos_iff]
  calc presentCount (freqOf data)
    _ = (presentBytes (freqOf data)).length := (presentBytes_length _).symm
    _ = (presentBytes (freqOf data)).toFinset.card := (List.toFinset_card_of_nodup (allBytes_nodup.filter _)).symm
    _ = data.toFinset.card := by rw [hbytes]

/-- R61, R105: COUNT and ENCODE both leave the counts of the input in FREQ. -/
theorem exec_freq_of_count_or_encode (s : State) {i : Instr} (hi : i = .count ∨ i = .encode) :
    ∃ t, exec i s = .next t ∧ t.freq = freqOf s.input := by
  rcases hi with rfl | rfl
  · exact ⟨_, exec_count s, State.countPhase_freq s⟩
  · exact ⟨_, exec_encode_eq_packPhase s, State.tablePhases_freq s⟩

/-- Settles O18: both commands leave the counts of the input, which sum to its length. -/
theorem frequencyIsConserved : Obligations.FrequencyIsConserved := by
  unfold Obligations.FrequencyIsConserved
  intro s i hi
  obtain ⟨t, ht, hfreq⟩ := exec_freq_of_count_or_encode s hi
  refine ⟨t, ht, ?_, ?_⟩
  · rw [hfreq, totalCount_freqOf, State.input_length]
  · rw [hfreq, presentCount_freqOf]

end Sys2Proof.Machine
end

section
/-! PROOFS. The merges of BUILD: each takes the two least nodes of the queue (R67, R68), the root carries the total of
the counts (R70), and the trees that need no merge (R71). -/

namespace Sys2Proof.Machine

/-! ### What the merges keep, given the invariant of the queue -/

/-- A property of the queue and the nodes that every merge of R66 keeps when `MergeState` holds. -/
def KeptByMergesOf (leaves : List Node) (P : List QueueItem → List Node → Prop) : Prop :=
  ∀ q q₁ q₂ nodes a b, extractMin q = some (a, q₁) → extractMin q₁ = some (b, q₂) → MergeState leaves q nodes →
    P q nodes → P (⟨nodes.length, a.freq + b.freq⟩ :: q₂) (nodes ++ [.internal a.idx b.idx (a.freq + b.freq)])

theorem KeptByMerges.of {P : List QueueItem → List Node → Prop} (h : KeptByMerges P) (leaves : List Node) :
    KeptByMergesOf leaves P := fun q q₁ q₂ nodes a b ha hb _ => h q q₁ q₂ nodes a b ha hb

/-- The induction over a whole `build` that makes a tree: it ends with the root alone in the queue. -/
theorem build_ends {P : List QueueItem → List Node → Prop} {f : FreqTable} (h : presentCount f ≠ 0)
    (hmerge : KeptByMergesOf (leavesOf f) P) (hstart : P (initialQueue (leavesOf f)) (leavesOf f)) :
    ∃ root, MergeState (leavesOf f) [root] (build f) ∧ P [root] (build f) := by
  have hne : leavesOf f ≠ [] := fun e => h (by rw [← leavesOf_length, e]; rfl)
  have hkept : KeptByMerges fun q nodes => MergeState (leavesOf f) q nodes ∧ P q nodes :=
    fun q q₁ q₂ nodes a b ha hb hq =>
      ⟨MergeState.keptByMerges _ _ _ _ _ _ _ ha hb hq.1, hmerge _ _ _ _ _ _ ha hb hq.1 hq.2⟩
  obtain ⟨q, hq, hm, hP⟩ := build_keeps f hkept ⟨.initial hne fun _ => children_of_mem_leavesOf, hstart⟩
  match q, hq, hm.nonempty with
  | [root], _, _ => exact ⟨root, hm, hP⟩

/-! ### The queue as R67 orders it -/

/-- Later entries do not change which nodes were queued when entry `k` was made. -/
theorem queued_append {nodes more : List Node} {k i : Nat} (hk : k ≤ nodes.length) :
    Queued (nodes ++ more) k i ↔ Queued nodes k i := by
  refine and_congr_right fun _ => forall₂_congr fun j m => forall_congr' fun hj => ?_
  rw [List.getElem?_append_left (by omega)]

theorem notAfter_append {nodes more : List Node} {i j : Nat} (hi : i < nodes.length) (hj : j < nodes.length) :
    NotAfter (nodes ++ more) i j ↔ NotAfter nodes i j := by
  rw [NotAfter, NotAfter, freqAt_append_of_lt _ _ hi, freqAt_append_of_lt _ _ hj]

/-- R67, R68 at the entry `k`: its children `l` and `r` are the two least nodes queued when it is made. -/
structure TakesLeast (nodes : List Node) (k l r : Nat) : Prop where
  left_queued : Queued nodes k l
  right_queued : Queued nodes k r
  ne : l ≠ r
  left_least : ∀ i, Queued nodes k i → NotAfter nodes l i
  right_least : ∀ i, Queued nodes k i → i ≠ l → NotAfter nodes r i

theorem TakesLeast.append {nodes : List Node} {k l r : Nat} (h : TakesLeast nodes k l r) (hk : k ≤ nodes.length)
    (more : List Node) : TakesLeast (nodes ++ more) k l r := by
  have hlt : ∀ {i}, Queued nodes k i → i < nodes.length := fun hi => hi.1.trans_le hk
  refine ⟨(queued_append hk).2 h.left_queued, (queued_append hk).2 h.right_queued, h.ne, fun i hi => ?_,
    fun i hi hne => ?_⟩ <;> rw [queued_append hk] at hi
  · exact (notAfter_append (hlt h.left_queued) (hlt hi)).2 (h.left_least i hi)
  · exact (notAfter_append (hlt h.right_queued) (hlt hi)).2 (h.right_least i hi hne)

section
variable {leaves nodes : List Node} {q q₁ q₂ : List QueueItem} {a b : QueueItem}

/-- The model's queue holds exactly the nodes the spec calls queued. -/
theorem MergeState.queued_iff (h : MergeState leaves q nodes) {i : Nat} :
    Queued nodes nodes.length i ↔ ∃ x ∈ q, x.idx = i := by
  have hsplit := h.partition.mem_iff (a := i)
  have hdisj := (List.nodup_append.1 (h.partition.nodup_iff.2 List.nodup_range)).2.2
  simp only [List.mem_append, List.mem_map, List.mem_flatMap, List.mem_range] at hsplit hdisj
  constructor
  · rintro ⟨hi, hchild⟩
    refine (hsplit.2 hi).resolve_right ?_
    rintro ⟨m, hm, him⟩
    obtain ⟨j, hj⟩ := List.mem_iff_getElem?.1 hm
    exact hchild j m (List.getElem?_eq_some_iff.1 hj).1 hj him
  · intro hx
    exact ⟨hsplit.1 (.inl hx), fun j m _ hj him => hdisj i hx i ⟨m, List.mem_of_getElem? hj, him⟩ rfl⟩

/-- The order of the model's queue is the order of R67. -/
theorem MergeState.notAfter_of_not_before (h : MergeState leaves q nodes) {m x : QueueItem} (hm : m ∈ q) (hx : x ∈ q)
    (hle : x.before m = false) : NotAfter nodes m.idx x.idx := by
  rw [Bool.eq_false_iff, Ne, QueueItem.before_iff, h.freqs m hm, h.freqs x hx] at hle
  unfold NotAfter
  omega

/-- The two nodes a merge extracts are the two least of the queue. -/
theorem MergeState.takesLeast (h : MergeState leaves q nodes) (ha : extractMin q = some (a, q₁))
    (hb : extractMin q₁ = some (b, q₂)) : TakesLeast nodes nodes.length a.idx b.idx := by
  obtain ⟨hqa, hmina⟩ := extractMin_spec ha
  obtain ⟨hqb, hminb⟩ := extractMin_spec hb
  have ham : a ∈ q := hqa.symm.subset List.mem_cons_self
  have hsub : ∀ {x}, x ∈ q₁ → x ∈ q := fun hx => hqa.symm.subset (List.mem_cons_of_mem a hx)
  have hb₁ : b ∈ q₁ := hqb.symm.subset List.mem_cons_self
  have hfresh : ∀ x ∈ q₁, x.idx ≠ a.idx := by
    have hd := (hqa.map QueueItem.idx).nodup_iff.1 h.idx_nodup
    rw [List.map_cons, List.nodup_cons] at hd
    exact fun x hx e => hd.1 (e ▸ List.mem_map_of_mem hx)
  constructor
  case left_queued => exact h.queued_iff.2 ⟨a, ham, rfl⟩
  case right_queued => exact h.queued_iff.2 ⟨b, hsub hb₁, rfl⟩
  case ne => exact (hfresh b hb₁).symm
  case left_least =>
    intro i hi
    obtain ⟨x, hx, rfl⟩ := h.queued_iff.1 hi
    exact h.notAfter_of_not_before ham hx (hmina x hx)
  case right_least =>
    intro i hi hne
    obtain ⟨x, hx, rfl⟩ := h.queued_iff.1 hi
    have hx₁ : x ∈ q₁ := (List.mem_cons.1 (hqa.subset hx)).resolve_left fun e => hne (e ▸ rfl)
    exact h.notAfter_of_not_before (hsub hb₁) hx (hminb x hx₁)

end

/-- Every internal entry made so far took the two least nodes of its queue. -/
def MergesTakeLeast (nodes : List Node) : Prop :=
  ∀ k l r w, nodes[k]? = some (.internal l r w) → TakesLeast nodes k l r

theorem MergesTakeLeast.initial (f : FreqTable) : MergesTakeLeast (leavesOf f) := by
  intro k l r w hk
  have := children_of_mem_leavesOf (List.mem_of_getElem? hk)
  cases this

theorem MergesTakeLeast.keptByMerges (leaves : List Node) :
    KeptByMergesOf leaves fun _ nodes => MergesTakeLeast nodes := by
  intro q q₁ q₂ nodes a b ha hb hm h k l r w hk
  have hle : k ≤ nodes.length := by
    have := (List.getElem?_eq_some_iff.1 hk).1
    rw [List.length_append, List.length_singleton] at this
    omega
  refine TakesLeast.append ?_ hle _
  rcases hle.lt_or_eq with hlt | rfl
  · exact h k l r w (by rwa [List.getElem?_append_left hlt] at hk)
  · obtain ⟨rfl, rfl, -⟩ : a.idx = l ∧ b.idx = r ∧ a.freq + b.freq = w := by simpa using hk
    exact hm.takesLeast ha hb

theorem build_mergesTakeLeast (f : FreqTable) : MergesTakeLeast (build f) := by
  by_cases h : presentCount f = 0
  · rw [build_eq_nil h]
    intro k l r w hk
    cases hk
  · obtain ⟨_, -, hP⟩ := build_ends h (MergesTakeLeast.keptByMerges _) (MergesTakeLeast.initial f)
    exact hP

/-- Settles O20: what is queued in the model is what R67 calls queued, and an entry keeps the order it was made in. -/
theorem eachMergeTakesTheTwoLeastNodes : Obligations.EachMergeTakesTheTwoLeastNodes := by
  unfold Obligations.EachMergeTakesTheTwoLeastNodes
  intro f k l r w hk
  obtain ⟨hl, hr, hne, hleast, hnext⟩ := build_mergesTakeLeast f k l r w hk
  exact ⟨hl, hr, hne, hleast, hnext⟩

/-! ### The root's frequency -/

theorem freqAt_of_getElem? {nodes : List Node} {i : Nat} {n : Node} (h : nodes[i]? = some n) :
    freqAt nodes i = n.freq := by rw [freqAt, h]

/-- R70: with a count above 0 there is a tree, and its root has the total of the counts. -/
theorem build_root_freq {f : FreqTable} (h : presentCount f ≠ 0) :
    ∃ root, (build f).getLast? = some root ∧ root.freq = totalCount f := by
  obtain ⟨x, hm, hsum, -⟩ := build_ends h ((FreqsWithin.keptByMerges (totalCount f)).of _) (.initial f)
  have hx := List.mem_singleton_self x
  obtain ⟨root, hroot⟩ : ∃ root, (build f)[x.idx]? = some root := ⟨_, List.getElem?_eq_getElem (hm.idx_lt hx)⟩
  refine ⟨root, ?_, ?_⟩
  · rw [List.getLast?_eq_getElem?, ← hm.root_idx fun _ => children_of_mem_leavesOf]
    exact hroot
  · rw [← freqAt_of_getElem? hroot, ← hm.freqs x hx, ← hsum]
    simp

/-- A leaf has a count of at least 1, and an internal entry the sum of two smaller entries'. -/
theorem StrictTree.freqAt_pos {nodes : List Node} {n i : Nat} (h : StrictTree nodes n) (hi : i < nodes.length) :
    0 < freqAt nodes i := by
  induction i using Nat.strong_induction_on with
  | _ i ih =>
    rcases Nat.lt_or_ge i n with hin | hin
    · obtain ⟨sym, w, hleaf, hw⟩ := h.leaves i hin
      rw [freqAt_of_getElem? hleaf]
      exact hw
    · obtain ⟨l, r, -, hl, -, hn⟩ := h.internals i hin (h.length_eq ▸ hi)
      rw [freqAt_of_getElem? hn]
      exact Nat.add_pos_left (ih l hl (hl.trans hi)) _

theorem build_freq_pos {f : FreqTable} {n : Node} (hn : n ∈ build f) : 0 < n.freq := by
  by_cases h : presentCount f = 0
  · rw [build_eq_nil h] at hn
    cases hn
  · obtain ⟨i, hi⟩ := List.mem_iff_getElem?.1 hn
    rw [← freqAt_of_getElem? hi]
    exact (build_strictTree h).freqAt_pos (List.getElem?_eq_some_iff.1 hi).1

theorem presentBytes_eq_nil_iff {f : FreqTable} : presentBytes f = [] ↔ ∀ b, countAt f b = 0 := by
  simp [List.eq_nil_iff_forall_not_mem]

theorem presentCount_eq_zero_iff {f : FreqTable} : presentCount f = 0 ↔ ∀ b, countAt f b = 0 := by
  rw [← presentBytes_length, List.length_eq_zero_iff, presentBytes_eq_nil_iff]

theorem presentCount_ne_zero_of_totalCount_pos {f : FreqTable} (h : 0 < totalCount f) : presentCount f ≠ 0 := by
  intro h0
  refine h.ne' ?_
  rw [totalCount_eq, List.map_congr_left fun b _ => presentCount_eq_zero_iff.1 h0 b]
  simp only [List.map_const', List.sum_replicate, smul_zero]

/-- Settles O21: every merge keeps the sum of the queued frequencies, and the last queued node is the root. -/
theorem rootFrequencyIsTheTotal : Obligations.RootFrequencyIsTheTotal := by
  unfold Obligations.RootFrequencyIsTheTotal
  exact fun f => ⟨fun h => build_root_freq (presentCount_ne_zero_of_totalCount_pos h),
    fun n hn => ⟨build_freq_pos hn, build_freq_le hn⟩⟩

/-! ### The trees without a merge -/

theorem presentBytes_nodup (f : FreqTable) : (presentBytes f).Nodup := allBytes_nodup.filter _

theorem presentBytes_eq_singleton {f : FreqTable} {b : Byte} (hb : 0 < countAt f b)
    (hother : ∀ c, c ≠ b → countAt f c = 0) : presentBytes f = [b] := by
  refine List.perm_singleton.1 ((List.perm_ext_iff_of_nodup (presentBytes_nodup f) (List.nodup_singleton b)).2
    fun c => ?_)
  rw [mem_presentBytes, List.mem_singleton]
  exact ⟨fun hc => by_contra fun hne => hc.ne' (hother c hne), fun e => e ▸ hb⟩

/-- R71: a single leaf is extracted and nothing is left to merge it with. -/
theorem build_eq_singleton {f : FreqTable} {b : Byte} (hb : 0 < countAt f b)
    (hother : ∀ c, c ≠ b → countAt f c = 0) : build f = [.leaf b (countAt f b)] := by
  have hleaves : leavesOf f = [.leaf b (countAt f b)] := by
    rw [leavesOf_eq_map, presentBytes_eq_singleton hb hother]; rfl
  rw [build, hleaves]
  rfl

/-- Settles O22. -/
theorem degenerateTrees : Obligations.DegenerateTrees := by
  unfold Obligations.DegenerateTrees
  constructor
  · intro s h
    have hnil := build_eq_nil (presentCount_eq_zero_iff.2 h)
    exact ⟨s.buildPhase, exec_build s, by rw [State.buildPhase_nnodes, hnil]; rfl, hnil⟩
  · intro s b hb hother
    have hleaf := build_eq_singleton hb hother
    exact ⟨s.buildPhase, exec_build s, by rw [State.buildPhase_nnodes, hleaf]; rfl, hleaf⟩

end Sys2Proof.Machine
end

section
/-! PROOFS. ASSIGN on the node table of a tree: the code of a byte value is the path of its leaf (R72), the tables are
replaced whole (R74), and the number and the lengths of the codes (R75, R76). -/

namespace Sys2Proof.Machine

/-! ### Only leaves have codes -/

theorem leaf_mem_of_mem_walk {m i : Nat} {nodes : List Node} {p : Bits} {x : Byte × Bits}
    (h : x ∈ walk m nodes i p) : ∃ f, .leaf x.1 f ∈ nodes := by
  induction m generalizing i p with
  | zero => cases h
  | succ m ih =>
    rcases mem_walk_succ.1 h with ⟨f, hleaf, -⟩ | ⟨l, r, f, -, hx | hx⟩
    · exact ⟨f, List.mem_of_getElem? hleaf⟩
    · exact ih hx
    · exact ih hx

theorem leaf_mem_of_mem_codePairs {nodes : List Node} {x : Byte × Bits} (h : x ∈ codePairs nodes) :
    ∃ f, .leaf x.1 f ∈ nodes := by
  unfold codePairs at h
  split at h
  · cases h
  · obtain rfl := List.mem_singleton.1 h
    exact ⟨_, List.mem_singleton_self _⟩
  · exact leaf_mem_of_mem_walk h

/-- Settles O24: a code of the new table is a pair of a leaf, and a key of the new reverse table is a code. -/
theorem assignReplacesBothTables : Obligations.AssignReplacesBothTables := by
  unfold Obligations.AssignReplacesBothTables
  intro s
  refine ⟨s.assignPhase, exec_assign s, State.setEcode_ecode _ _, fun b hb => ?_, rfl⟩
  have hnone : ∀ p, codeAt (assign s.validNodes) b ≠ some p := fun p hp => by
    obtain ⟨f, hf⟩ := leaf_mem_of_mem_codePairs (mem_codePairs_of_codeAt_assign hp)
    exact hb f hf
  exact ⟨Option.eq_none_iff_forall_ne_some.2 hnone, fun p hp => hnone p (mem_inverse.1 (mem_of_rcodeAt hp))⟩

/-! ### The paths of a strict tree -/

/-- A walk visits leaves and carries their paths, whatever the node list. -/
theorem path_of_mem_walk {m i : Nat} {nodes : List Node} {p : Bits} {x : Byte × Bits} (hp : PathTo nodes i p)
    (h : x ∈ walk m nodes i p) : ∃ j f, nodes[j]? = some (.leaf x.1 f) ∧ PathTo nodes j x.2 := by
  induction m generalizing i p with
  | zero => cases h
  | succ m ih =>
    rcases mem_walk_succ.1 h with ⟨f, hleaf, hx⟩ | ⟨l, r, f, hi, hx | hx⟩
    · exact ⟨i, f, hleaf, hx ▸ hp⟩
    · exact ih (.left hp hi) hx
    · exact ih (.right hp hi) hx

/-- What is visited from the end of a path is visited from the root, with steps enough. -/
theorem mem_walk_root_of_path {i : Nat} {nodes : List Node} {p : Bits} {x : Byte × Bits} (hp : PathTo nodes i p) :
    ∀ m, x ∈ walk m nodes i p → ∃ m', x ∈ walk m' nodes (nodes.length - 1) [] := by
  induction hp with
  | root => exact fun m hx => ⟨m, hx⟩
  | left _ hi ih => exact fun m hx => ih (m + 1) (mem_walk_succ.2 (.inr ⟨_, _, _, hi, .inl hx⟩))
  | right _ hi ih => exact fun m hx => ih (m + 1) (mem_walk_succ.2 (.inr ⟨_, _, _, hi, .inr hx⟩))

@[simp] theorem mem_children_internal {i l r f : Nat} : i ∈ (Node.internal l r f).children ↔ i = l ∨ i = r := by
  simp [Node.children]

/-- An entry with a child is internal. -/
theorem internal_of_mem_children {m : Node} {i : Nat} (hi : i ∈ m.children) : ∃ l r f, m = .internal l r f := by
  cases m with
  | leaf => cases hi
  | internal l r f => exact ⟨l, r, f, rfl⟩

section
variable {nodes : List Node} {n : Nat} (h : StrictTree nodes n)
include h

/-- A child's index is below its parent's (R21), so a walk needs no more steps than its entry's index and one. -/
theorem StrictTree.mem_walk_of_lt {m k i : Nat} {p : Bits} {x : Byte × Bits} (hi : i < k)
    (hx : x ∈ walk m nodes i p) : x ∈ walk k nodes i p := by
  induction m generalizing i p k with
  | zero => cases hx
  | succ m ih =>
    obtain ⟨k, rfl⟩ : ∃ k', k = k' + 1 := ⟨k - 1, by omega⟩
    refine mem_walk_succ.2 ((mem_walk_succ.1 hx).imp id ?_)
    rintro ⟨l, r, f, hn, hx⟩
    obtain ⟨-, hl, hr⟩ := h.of_internal hn
    exact ⟨l, r, f, hn, hx.imp (ih (by omega)) (ih (by omega))⟩

/-- The leaves a walk of the whole tree visits, with their paths, are all there are. -/
theorem StrictTree.mem_walk_root_iff {x : Byte × Bits} : x ∈ walk nodes.length nodes (nodes.length - 1) [] ↔
    ∃ i f, nodes[i]? = some (.leaf x.1 f) ∧ PathTo nodes i x.2 := by
  constructor
  · exact path_of_mem_walk .root
  · rintro ⟨i, f, hleaf, hp⟩
    obtain ⟨m, hm⟩ := mem_walk_root_of_path hp 1 (mem_walk_succ.2 (.inl ⟨f, hleaf, rfl⟩))
    have hlen := h.length_eq
    have hpos := h.pos
    exact h.mem_walk_of_lt (by omega) hm

/-- R21: every entry but the last is a child, of an entry above it. -/
theorem StrictTree.exists_parent {i : Nat} (hi : i < nodes.length - 1) :
    ∃ j l r f, i < j ∧ nodes[j]? = some (.internal l r f) ∧ (i = l ∨ i = r) := by
  have hlen := h.length_eq
  obtain ⟨m, hm, him⟩ := List.mem_flatMap.1 (h.one_parent.symm.subset (List.mem_range.2 (show i < 2 * n - 2 by omega)))
  obtain ⟨j, hj⟩ := List.mem_iff_getElem?.1 hm
  obtain ⟨l, r, f, rfl⟩ := internal_of_mem_children him
  obtain ⟨-, hl, hr⟩ := h.of_internal hj
  have hchild := mem_children_internal.1 him
  exact ⟨j, l, r, f, by omega, hj, hchild⟩

/-- Every entry can be reached from the root. -/
theorem StrictTree.exists_path {i : Nat} (hi : i < nodes.length) : ∃ p, PathTo nodes i p := by
  rcases Nat.lt_or_ge i (nodes.length - 1) with hlt | hge
  · obtain ⟨j, l, r, f, hij, hj, hchild⟩ := h.exists_parent hlt
    obtain ⟨p, hp⟩ := StrictTree.exists_path (List.getElem?_eq_some_iff.1 hj).1
    rcases hchild with rfl | rfl
    · exact ⟨_, .left hp hj⟩
    · exact ⟨_, .right hp hj⟩
  · obtain rfl : i = nodes.length - 1 := by omega
    exact ⟨[], .root⟩
termination_by nodes.length - i

/-- R21: the last entry is the child of none. -/
theorem StrictTree.root_not_child {j l r f : Nat} (hj : nodes[j]? = some (.internal l r f)) :
    l ≠ nodes.length - 1 ∧ r ≠ nodes.length - 1 := by
  obtain ⟨-, hl, hr⟩ := h.of_internal hj
  have := (List.getElem?_eq_some_iff.1 hj).1
  omega

theorem StrictTree.left_ne_right {i l r f : Nat} (hi : nodes[i]? = some (.internal l r f)) : l ≠ r := by
  obtain ⟨hin, -, -⟩ := h.of_internal hi
  obtain ⟨l', r', hne, -, -, hn⟩ := h.internals i hin (h.length_eq ▸ (List.getElem?_eq_some_iff.1 hi).1)
  obtain ⟨rfl, rfl, -⟩ : l = l' ∧ r = r' ∧ f = _ := by simpa [hi] using hn
  exact hne

/-- R21: an entry is the child of one internal entry only. -/
theorem StrictTree.parent_unique {i j k l r l' r' f g : Nat} (hj : nodes[j]? = some (.internal l r f))
    (hk : nodes[k]? = some (.internal l' r' g)) (hi : i = l ∨ i = r) (hi' : i = l' ∨ i = r') :
    j = k ∧ l = l' ∧ r = r' := by
  have hdisj := List.pairwise_iff_getElem.1 (List.nodup_flatMap.1 (h.one_parent.nodup_iff.2 List.nodup_range)).2
  obtain ⟨hjlt, ej⟩ := List.getElem?_eq_some_iff.1 hj
  obtain ⟨hklt, ek⟩ := List.getElem?_eq_some_iff.1 hk
  have hij : i ∈ nodes[j].children := ej ▸ mem_children_internal.2 hi
  have hik : i ∈ nodes[k].children := ek ▸ mem_children_internal.2 hi'
  rcases Nat.lt_trichotomy j k with hlt | rfl | hlt
  · exact absurd hik (hdisj j k hjlt hklt hlt hij)
  · obtain ⟨rfl, rfl, -⟩ : l = l' ∧ r = r' ∧ f = g := by simpa [hj] using hk
    exact ⟨rfl, rfl, rfl⟩
  · exact absurd hij (hdisj k j hklt hjlt hlt hik)

/-- R72: the path of an entry is one bit-string. -/
theorem StrictTree.path_unique {i : Nat} {p q : Bits} (hp : PathTo nodes i p) (hq : PathTo nodes i q) : p = q := by
  induction hp generalizing q with
  | root =>
    cases hq with
    | root => rfl
    | left _ hj => exact absurd rfl (h.root_not_child hj).1
    | right _ hj => exact absurd rfl (h.root_not_child hj).2
  | left _ hi ih =>
    cases hq with
    | root => exact absurd rfl (h.root_not_child hi).1
    | left hp' hj =>
      obtain ⟨rfl, -, -⟩ := h.parent_unique hi hj (.inl rfl) (.inl rfl)
      rw [ih hp']
    | right _ hj =>
      obtain ⟨-, hl, -⟩ := h.parent_unique hi hj (.inl rfl) (.inr rfl)
      exact absurd hl.symm (h.left_ne_right hj)
  | right _ hi ih =>
    cases hq with
    | root => exact absurd rfl (h.root_not_child hi).2
    | left _ hj =>
      obtain ⟨-, -, hr⟩ := h.parent_unique hi hj (.inr rfl) (.inl rfl)
      exact absurd hr (h.left_ne_right hj)
    | right hp' hj =>
      obtain ⟨rfl, -, -⟩ := h.parent_unique hi hj (.inr rfl) (.inr rfl)
      rw [ih hp']

/-- R21: the entries that are leaves are the first n. -/
theorem StrictTree.lt_of_leaf {i f : Nat} {b : Byte} (hi : nodes[i]? = some (.leaf b f)) : i < n := by
  by_contra hge
  obtain ⟨l, r, -, -, -, hn⟩ := h.internals i (by omega) (h.length_eq ▸ (List.getElem?_eq_some_iff.1 hi).1)
  simp [hi] at hn

/-- R21: no two leaves hold the same byte value. -/
theorem StrictTree.leaf_unique {i j f g : Nat} {b : Byte} (hi : nodes[i]? = some (.leaf b f))
    (hj : nodes[j]? = some (.leaf b g)) : i = j := by
  rcases Nat.lt_trichotomy i j with hlt | rfl | hlt
  · exact absurd (h.ascending i j b b f g hlt (h.lt_of_leaf hj) hi hj) (lt_irrefl _)
  · rfl
  · exact absurd (h.ascending j i b b g f hlt (h.lt_of_leaf hi) hj hi) (lt_irrefl _)

/-- Each byte value stands in one pair at most. -/
theorem StrictTree.codePairs_unique {b : Byte} {p q : Bits} (hp : (b, p) ∈ codePairs nodes)
    (hq : (b, q) ∈ codePairs nodes) : p = q := by
  rcases h.codePairs_cases with ⟨-, c, f, -, hpairs⟩ | ⟨-, hpairs⟩
  · rw [hpairs, List.mem_singleton, Prod.mk.injEq] at hp hq
    exact hp.2.trans hq.2.symm
  · rw [hpairs, h.mem_walk_root_iff] at hp hq
    obtain ⟨i, f, hi, hpi⟩ := hp
    obtain ⟨j, g, hj, hqj⟩ := hq
    obtain rfl := h.leaf_unique hi hj
    exact h.path_unique hpi hqj

end

/-! ### The code table of a tree -/

/-- A byte value that stands in a pair, or had a code before, has a code when all pairs are written. -/
theorem exists_codeAt_foldl_setCode {pairs : List (Byte × Bits)} {table : CodeTable} {b : Byte}
    (h : b ∈ pairs.map Prod.fst ∨ ∃ p, codeAt table b = some p) :
    ∃ p, codeAt (pairs.foldl (fun c q => setCode c q.1 q.2) table) b = some p := by
  induction pairs generalizing table with
  | nil => exact h.resolve_left (by simp)
  | cons x rest ih =>
    refine ih ?_
    by_cases hx : x.1 = b
    · exact .inr ⟨x.2, by rw [codeAt_setCode, if_pos hx]⟩
    · rw [codeAt_setCode, if_neg hx]
      exact h.imp_left fun hm => (List.mem_cons.1 hm).resolve_left (Ne.symm hx)

section
variable {nodes : List Node} {n : Nat} (h : StrictTree nodes n)
include h

/-- The codes of the table are the pairs of the tree. -/
theorem StrictTree.codeAt_assign_iff {b : Byte} {p : Bits} :
    codeAt (assign nodes) b = some p ↔ (b, p) ∈ codePairs nodes := by
  refine ⟨mem_codePairs_of_codeAt_assign, fun hp => ?_⟩
  have hb : b ∈ (codePairs nodes).map Prod.fst := List.mem_map_of_mem hp
  obtain ⟨q, hq⟩ := exists_codeAt_foldl_setCode (table := CodeTable.empty) (.inl hb)
  rw [h.codePairs_unique hp (mem_codePairs_of_codeAt_assign hq)]
  exact hq

/-- R72: with two leaves or more the code of a byte value is the path of its leaf. -/
theorem StrictTree.codeAt_assign_iff_path (hn : 2 ≤ n) {b : Byte} {p : Bits} :
    codeAt (assign nodes) b = some p ↔ ∃ i f, nodes[i]? = some (.leaf b f) ∧ PathTo nodes i p := by
  rcases h.codePairs_cases with ⟨h1, -⟩ | ⟨-, hpairs⟩
  · omega
  · rw [h.codeAt_assign_iff, hpairs, h.mem_walk_root_iff]

/-- R74: the byte values with a code are those of the leaves. -/
theorem StrictTree.exists_codeAt_assign_iff {b : Byte} :
    (∃ p, codeAt (assign nodes) b = some p) ↔ ∃ f, .leaf b f ∈ nodes := by
  constructor
  · rintro ⟨p, hp⟩
    exact leaf_mem_of_mem_codePairs (mem_codePairs_of_codeAt_assign hp)
  · rintro ⟨f, hf⟩
    rcases h.codePairs_cases with ⟨-, c, g, rfl, hpairs⟩ | ⟨hn, -⟩
    · obtain ⟨rfl, -⟩ : b = c ∧ f = g := by simpa using hf
      exact ⟨[false], h.codeAt_assign_iff.2 (by simp [hpairs])⟩
    · obtain ⟨i, hi⟩ := List.mem_iff_getElem?.1 hf
      obtain ⟨p, hp⟩ := h.exists_path (List.getElem?_eq_some_iff.1 hi).1
      exact ⟨p, (h.codeAt_assign_iff_path hn).2 ⟨i, f, hi, hp⟩⟩

/-- R75: there are as many codes as leaves. -/
theorem StrictTree.assign_codes_length : (allBytes.filter fun b => (codeAt (assign nodes) b).isSome).length = n := by
  choose! byte freq hleaf _ using h.leaves
  rw [← List.toFinset_card_of_nodup (allBytes_nodup.filter _)]
  refine Finset.card_eq_of_bijective (fun i _ => byte i) (fun b hb => ?_) (fun i hi => ?_) fun i j hi hj heq => ?_
  · have hcode := Option.isSome_iff_exists.1 (List.mem_filter.1 (List.mem_toFinset.1 hb)).2
    obtain ⟨f, hf⟩ := h.exists_codeAt_assign_iff.1 hcode
    obtain ⟨i, hi⟩ := List.mem_iff_getElem?.1 hf
    have hin := h.lt_of_leaf hi
    obtain ⟨rfl, -⟩ : byte i = b ∧ freq i = f := by simpa [hi] using (hleaf i hin).symm
    exact ⟨i, hin, rfl⟩
  · have hcode := h.exists_codeAt_assign_iff.2 ⟨_, List.mem_of_getElem? (hleaf i hi)⟩
    exact List.mem_toFinset.2 (List.mem_filter.2 ⟨mem_allBytes _, Option.isSome_iff_exists.2 hcode⟩)
  · exact h.leaf_unique (hleaf i hi) (heq ▸ hleaf j hj)

end

/-- The same for whatever NODE holds. -/
theorem TreeTable.assign_codes_length {nodes : List Node} (h : TreeTable nodes) :
    (allBytes.filter fun b => (codeAt (assign nodes) b).isSome).length = (nodes.length + 1) / 2 := by
  rcases h with rfl | ⟨n, h⟩
  · simp [assign_nil]
  · have hlen := h.length_eq
    have hpos := h.pos
    rw [h.assign_codes_length]
    omega

theorem State.validNodes_of_nnodes {s : State} (h : s.nnodes = s.node.length) : s.validNodes = s.node := by
  rw [State.validNodes, h, List.take_length]

/-- Settles O23: the walk visits the leaves with their paths, and no two of its pairs hold one byte value. -/
theorem assignGivesThePaths : Obligations.AssignGivesThePaths := by
  unfold Obligations.AssignGivesThePaths
  intro s htree hnn
  refine ⟨s.assignPhase, exec_assign s, State.setEcode_ecode _ _, ?_⟩
  rw [State.assignPhase_code, State.assignPhase_rcode, State.validNodes_of_nnodes hnn]
  refine ⟨fun hnil b => ?_, fun b f hleaf => ?_, fun hlen b p => ?_, (assign_prefixCode htree).inverse_tables⟩
  · rw [hnil, assign_nil, codeAt_empty]
  · have htable : assign s.node = setCode CodeTable.empty b [false] := by rw [hleaf]; rfl
    rw [htable]
    exact ⟨by simp, fun c hc => by simp [hc.symm]⟩
  · rcases htree with hnil | ⟨n, h⟩
    · simp [hnil] at hlen
    · have := h.length_eq
      exact h.codeAt_assign_iff_path (by omega)

/-- Settles O25: the paths of one walk begin with no other, and ENCODE assigns the codes of a tree it built. -/
theorem codesArePrefixFree : Obligations.CodesArePrefixFree := by
  unfold Obligations.CodesArePrefixFree
  constructor
  · intro s htree hnn
    refine ⟨s.assignPhase, exec_assign s, ?_⟩
    rw [State.assignPhase_code, State.validNodes_of_nnodes hnn, hnn]
    exact ⟨fun _ _ _ _ => assign_prefixFree, htree.assign_codes_length⟩
  · intro s
    refine ⟨s.tablePhases.packPhase, exec_encode_eq_packPhase s, ?_⟩
    rw [State.packPhase_code, State.packPhase_nnodes, State.tablePhases_code, State.tablePhases_nnodes]
    exact ⟨fun _ _ _ _ => assign_prefixFree, (build_treeTable _).assign_codes_length⟩

/-- Settles O26: the length of a walk's path is bounded by the number of internal entries it descends from. -/
theorem codeLengthsAreBounded : Obligations.CodeLengthsAreBounded := by
  unfold Obligations.CodeLengthsAreBounded
  intro nodes n b p h hp
  have hlen := h.codePairs_length (mem_codePairs_of_codeAt_assign hp)
  have hn := h.le_nsym
  dsimp only at hlen
  omega

end Sys2Proof.Machine
end

section
/-! PROOFS. Optimality (R78). The merges are compared with any code through its lengths alone: when none of
two or more codes begins with another their lengths meet Kraft's inequality; the two least weights can be given the two
longest codes, and then merging them saves at least what a merge of `build` costs. -/

namespace Sys2Proof.Machine

/-! ### Codes as weights with lengths -/

/-- A weight and the length of the code it has. -/
structure WeightedLength where
  weight : Nat
  len : Nat

/-- The bits a code takes: each weight times its length (R78). -/
def bitsUsed (code : List WeightedLength) : Nat := (code.map fun e => e.weight * e.len).sum

@[simp] theorem bitsUsed_cons (e : WeightedLength) (code : List WeightedLength) :
    bitsUsed (e :: code) = e.weight * e.len + bitsUsed code := by simp [bitsUsed]

theorem bitsUsed_perm {c d : List WeightedLength} (h : c.Perm d) : bitsUsed c = bitsUsed d :=
  (h.map fun e : WeightedLength => e.weight * e.len).sum_eq

/-- The sum of Kraft's inequality. -/
noncomputable def kraftSum (lens : List Nat) : ℝ := (lens.map fun l => (1 / 2 : ℝ) ^ l).sum

@[simp] theorem kraftSum_cons (l : Nat) (lens : List Nat) : kraftSum (l :: lens) = (1 / 2) ^ l + kraftSum lens := by
  simp [kraftSum]

theorem kraftSum_perm {k l : List Nat} (h : k.Perm l) : kraftSum k = kraftSum l :=
  (h.map fun l => (1 / 2 : ℝ) ^ l).sum_eq

theorem kraftSum_nonneg (lens : List Nat) : 0 ≤ kraftSum lens := by
  refine List.sum_nonneg fun x hx => ?_
  obtain ⟨l, -, rfl⟩ := List.mem_map.1 hx
  positivity

/-- Lengths up to `m` fill a whole number of the places of length `m`. -/
theorem exists_kraftSum_eq_mul {lens : List Nat} {m : Nat} (h : ∀ l ∈ lens, l ≤ m) :
    ∃ k : Nat, kraftSum lens = k * (1 / 2) ^ m := by
  induction lens with
  | nil => exact ⟨0, by simp [kraftSum]⟩
  | cons l rest ih =>
    obtain ⟨k, hk⟩ := ih fun x hx => h x (List.mem_cons_of_mem _ hx)
    obtain ⟨d, rfl⟩ := Nat.exists_eq_add_of_le (h l List.mem_cons_self)
    have hl : (1 / 2 : ℝ) ^ l = 2 ^ d * (1 / 2) ^ (l + d) := by
      rw [pow_add, mul_left_comm, ← mul_pow]; norm_num
    exact ⟨2 ^ d + k, by rw [kraftSum_cons, hk, hl]; push_cast; ring⟩

/-- The two longest codes can be cut to the shorter of them and replaced by one code a bit shorter. -/
theorem kraftSum_merge {m n : Nat} {lens : List Nat} (hnm : n ≤ m) (hle : ∀ l ∈ lens, l ≤ n)
    (h : kraftSum (m :: n :: lens) ≤ 1) : 1 ≤ n ∧ kraftSum ((n - 1) :: lens) ≤ 1 := by
  rw [kraftSum_cons, kraftSum_cons] at h
  have hm : (0 : ℝ) < (1 / 2) ^ m := by positivity
  have hpos : 1 ≤ n := by
    by_contra h0
    obtain rfl : n = 0 := by omega
    have := kraftSum_nonneg lens
    rw [pow_zero] at h
    linarith
  refine ⟨hpos, ?_⟩
  obtain ⟨k, hk⟩ := exists_kraftSum_eq_mul hle
  have hunit : (2 : ℝ) ^ n * (1 / 2) ^ n = 1 := by rw [← mul_pow]; norm_num
  have hn : (0 : ℝ) < (1 / 2) ^ n := by positivity
  have hroom : k + 1 < 2 ^ n := by
    have hlt : ((k : ℝ) + 1) * (1 / 2) ^ n < 2 ^ n * (1 / 2) ^ n := by rw [hunit]; linarith
    exact_mod_cast lt_of_mul_lt_mul_right hlt hn.le
  have hfit : ((k : ℝ) + 2) * (1 / 2) ^ n ≤ 2 ^ n * (1 / 2) ^ n :=
    mul_le_mul_of_nonneg_right (by exact_mod_cast hroom) hn.le
  have hdouble : (1 / 2 : ℝ) ^ (n - 1) = 2 * (1 / 2) ^ n := by
    obtain ⟨d, rfl⟩ := Nat.exists_eq_add_of_le' hpos
    rw [Nat.add_sub_cancel, pow_succ]; ring
  rw [kraftSum_cons, hdouble, hk]
  linarith

/-! ### The exchange -/

/-- A least weight can be given a greatest length, the other weights keeping the other lengths: that takes no more
bits. -/
theorem exists_longest_first {code : List WeightedLength} {a : Nat} {weights : List Nat}
    (hw : (code.map WeightedLength.weight).Perm (a :: weights)) (hmin : ∀ w ∈ weights, a ≤ w) :
    ∃ m rest, (rest.map WeightedLength.weight).Perm weights ∧
      (code.map WeightedLength.len).Perm (m :: rest.map WeightedLength.len) ∧
      (∀ l ∈ rest.map WeightedLength.len, l ≤ m) ∧ a * m + bitsUsed rest ≤ bitsUsed code := by
  classical
  obtain ⟨e, he, rfl⟩ := List.mem_map.1 (hw.symm.subset List.mem_cons_self)
  obtain ⟨x, hx, hmax⟩ := Set.exists_max_image _ WeightedLength.len code.finite_toSet ⟨e, he⟩
  have hcode : code.Perm (x :: code.erase x) := List.perm_cons_erase hx
  have hle : ∀ {lens}, (code.map WeightedLength.len).Perm (x.len :: lens) → ∀ l ∈ lens, l ≤ x.len := by
    intro lens hlens l hl
    obtain ⟨y, hy, rfl⟩ := List.mem_map.1 (hlens.symm.subset (List.mem_cons_of_mem _ hl))
    exact hmax y hy
  rcases List.mem_cons.1 (hcode.subset he) with rfl | he'
  · have hlens := hcode.map WeightedLength.len
    exact ⟨e.len, code.erase e, ((hcode.map _).symm.trans hw).cons_inv, hlens, hle hlens,
      by rw [bitsUsed_perm hcode, bitsUsed_cons]⟩
  · have hcode' : code.Perm (x :: e :: (code.erase x).erase e) := hcode.trans ((List.perm_cons_erase he').cons x)
    have hweights : (x.weight :: ((code.erase x).erase e).map WeightedLength.weight).Perm weights :=
      (((hcode'.map _).trans (.swap _ _ _)).symm.trans hw).cons_inv
    have hlens : (code.map WeightedLength.len).Perm
        (x.len :: e.len :: ((code.erase x).erase e).map WeightedLength.len) := hcode'.map _
    refine ⟨x.len, ⟨x.weight, e.len⟩ :: (code.erase x).erase e, hweights, hlens, hle hlens, ?_⟩
    have hswap := mul_add_mul_le_mul_add_mul (hmin _ (hweights.subset List.mem_cons_self)) (hmax e he)
    rw [bitsUsed_perm hcode', bitsUsed_cons, bitsUsed_cons, bitsUsed_cons]
    dsimp only
    omega

/-- The two least weights merged: a code for the merged weights takes at least their sum fewer bits. -/
theorem exists_merged_code {code : List WeightedLength} {a b : Nat} {weights : List Nat}
    (hw : (code.map WeightedLength.weight).Perm (a :: b :: weights)) (ha : ∀ w ∈ b :: weights, a ≤ w)
    (hb : ∀ w ∈ weights, b ≤ w) (hk : kraftSum (code.map WeightedLength.len) ≤ 1) :
    ∃ merged : List WeightedLength, (merged.map WeightedLength.weight).Perm ((a + b) :: weights) ∧
      kraftSum (merged.map WeightedLength.len) ≤ 1 ∧ bitsUsed merged + (a + b) ≤ bitsUsed code := by
  obtain ⟨m, code₁, hw₁, hlens₁, hle₁, hbits₁⟩ := exists_longest_first hw ha
  obtain ⟨n, code₂, hw₂, hlens₂, hle₂, hbits₂⟩ := exists_longest_first hw₁ hb
  rw [kraftSum_perm (hlens₁.trans (hlens₂.cons m))] at hk
  have hnm : n ≤ m := hle₁ n (hlens₂.symm.subset List.mem_cons_self)
  obtain ⟨hn, hmerged⟩ := kraftSum_merge hnm hle₂ hk
  refine ⟨⟨a + b, n - 1⟩ :: code₂, hw₂.cons _, hmerged, ?_⟩
  have hcut : (a + b) * (n - 1) + (a + b) = a * n + b * n := by
    obtain ⟨d, rfl⟩ := Nat.exists_eq_add_of_le' hn
    rw [Nat.add_sub_cancel]; ring
  have ham : a * n ≤ a * m := Nat.mul_le_mul_left a hnm
  rw [bitsUsed_cons]
  dsimp only
  omega

/-! ### No code beats the merges -/

/-- A length for each queued frequency that meets Kraft's inequality. -/
def CodesQueue (q : List QueueItem) (code : List WeightedLength) : Prop :=
  (code.map WeightedLength.weight).Perm (q.map QueueItem.freq) ∧ kraftSum (code.map WeightedLength.len) ≤ 1

/-- The depths of the entries: a child is one deeper than its parent. -/
def DepthsIn (nodes : List Node) (depth : Nat → Nat) : Prop :=
  ∀ k l r w, nodes[k]? = some (.internal l r w) → depth l = depth k + 1 ∧ depth r = depth k + 1

theorem DepthsIn.of_append {nodes more : List Node} {depth : Nat → Nat} (h : DepthsIn (nodes ++ more) depth) :
    DepthsIn nodes depth := fun k l r w hk =>
  h k l r w (by rw [List.getElem?_append_left (List.getElem?_eq_some_iff.1 hk).1, hk])

/-- The bits that the depths of the queued nodes stand for. -/
def queueBits (depth : Nat → Nat) (q : List QueueItem) : Nat := (q.map fun x => x.freq * depth x.idx).sum

/-- Up to this queue, any code of the first queue has been at least as costly as the merges made. -/
def NoCodeBeats (start q : List QueueItem) (nodes : List Node) : Prop :=
  ∀ depth, DepthsIn nodes depth → ∀ code, CodesQueue start code →
    ∃ code', CodesQueue q code' ∧ bitsUsed code' + queueBits depth start ≤ bitsUsed code + queueBits depth q

theorem NoCodeBeats.initial (start : List QueueItem) (nodes : List Node) : NoCodeBeats start start nodes :=
  fun _ _ code hcode => ⟨code, hcode, le_rfl⟩

/-- An extracted item has the least frequency of the queue. -/
theorem extractMin_freq_le {q rest : List QueueItem} {m : QueueItem} (h : extractMin q = some (m, rest)) :
    ∀ w ∈ rest.map QueueItem.freq, m.freq ≤ w := by
  intro w hw
  obtain ⟨hperm, hmin⟩ := extractMin_spec h
  obtain ⟨x, hx, rfl⟩ := List.mem_map.1 hw
  have hle := hmin x (hperm.symm.subset (List.mem_cons_of_mem _ hx))
  rw [Bool.eq_false_iff, Ne, QueueItem.before_iff] at hle
  omega

theorem NoCodeBeats.keptByMerges (start : List QueueItem) : KeptByMerges (NoCodeBeats start) := by
  intro q q₁ q₂ nodes a b ha hb h depth hdepth code hcode
  obtain ⟨hda, hdb⟩ := hdepth nodes.length a.idx b.idx (a.freq + b.freq) (by simp)
  obtain ⟨code₁, ⟨hw, hk⟩, hbits⟩ := h depth hdepth.of_append code hcode
  have hperm := extractMin_twice_perm ha hb
  have hmin : ∀ w ∈ b.freq :: q₂.map QueueItem.freq, a.freq ≤ w := fun w hw =>
    extractMin_freq_le ha w (((extractMin_spec hb).1.map QueueItem.freq).symm.subset hw)
  obtain ⟨code₂, hw₂, hk₂, hbits₂⟩ :=
    exists_merged_code (hw.trans (hperm.map QueueItem.freq)) hmin (extractMin_freq_le hb) hk
  refine ⟨code₂, ⟨hw₂, hk₂⟩, ?_⟩
  have hq : queueBits depth q = queueBits depth (⟨nodes.length, a.freq + b.freq⟩ :: q₂) + (a.freq + b.freq) := by
    rw [queueBits, (hperm.map fun x => x.freq * depth x.idx).sum_eq]
    simp only [queueBits, List.map_cons, List.sum_cons, hda, hdb]
    ring
  omega

/-- The depths in the tree take at most the bits of any code of its leaves. -/
theorem queueBits_le_bitsUsed {f : FreqTable} {depth : Nat → Nat} (h : presentCount f ≠ 0)
    (hdepth : DepthsIn (build f) depth) (hroot : depth ((build f).length - 1) = 0) {code : List WeightedLength}
    (hcode : CodesQueue (initialQueue (leavesOf f)) code) :
    queueBits depth (initialQueue (leavesOf f)) ≤ bitsUsed code := by
  obtain ⟨root, hm, hbest⟩ := build_ends h ((NoCodeBeats.keptByMerges _).of _) (.initial _ _)
  obtain ⟨code', -, hbits⟩ := hbest depth hdepth code hcode
  have hzero : queueBits depth [root] = 0 := by
    simp [queueBits, hm.root_idx fun _ => children_of_mem_leavesOf, hroot]
  omega

/-! ### The bits of the tree's code -/

/-- The lengths of the paths are depths. -/
theorem StrictTree.exists_depths {nodes : List Node} {n : Nat} (h : StrictTree nodes n) :
    ∃ depth, DepthsIn nodes depth ∧ ∀ i p, PathTo nodes i p → depth i = p.length := by
  choose! path hpath using fun i (hi : i < nodes.length) => h.exists_path hi
  have hlt : ∀ {i p}, PathTo nodes i p → i < nodes.length := by
    intro i p hp
    cases hp with
    | root => have := h.length_eq; have := h.pos; omega
    | left _ hj | right _ hj =>
      obtain ⟨-, hl, hr⟩ := h.of_internal hj
      have := (List.getElem?_eq_some_iff.1 hj).1
      omega
  have hlen : ∀ i p, PathTo nodes i p → (path i).length = p.length := fun i p hp => by
    rw [h.path_unique (hpath i (hlt hp)) hp]
  refine ⟨fun i => (path i).length, fun k l r w hk => ?_, hlen⟩
  have hp := hpath k (List.getElem?_eq_some_iff.1 hk).1
  exact ⟨by simpa using hlen l _ (.left hp hk), by simpa using hlen r _ (.right hp hk)⟩

/-- The length of the code of a byte value, 0 if it has none. -/
def codeLength (table : CodeTable) (b : Byte) : Nat := ((codeAt table b).getD []).length

theorem codeLength_of_some {table : CodeTable} {b : Byte} {p : Bits} (h : codeAt table b = some p) :
    codeLength table b = p.length := by rw [codeLength, h, Option.getD_some]

/-- A byte value with count 0 adds no bits. -/
theorem totalBits_eq_presentBytes (f : FreqTable) (table : CodeTable) :
    totalBits f table = ((presentBytes f).map fun b => countAt f b * codeLength table b).sum := by
  rw [totalBits_eq, presentBytes]
  induction allBytes with
  | nil => rfl
  | cons b rest ih =>
    rw [List.map_cons, List.sum_cons, ih]
    by_cases hb : countAt f b > 0
    · simp [hb, codeLength]
    · simp [show countAt f b = 0 by omega]

/-- The queue starts with the counted byte values, each at its place. -/
theorem queueBits_initialQueue (f : FreqTable) (depth : Nat → Nat) :
    queueBits depth (initialQueue (leavesOf f)) =
      ((presentBytes f).zipIdx.map fun e => countAt f e.1 * depth e.2).sum := by
  rw [queueBits, initialQueue, leavesOf_eq_map, List.zipIdx_map, List.map_map, List.map_map]
  rfl

theorem totalBits_build {f : FreqTable} (h : 2 ≤ presentCount f) {depth : Nat → Nat}
    (hdepth : ∀ i p, PathTo (build f) i p → depth i = p.length) :
    queueBits depth (initialQueue (leavesOf f)) = totalBits f (assign (build f)) := by
  have htree := build_strictTree (f := f) (by omega)
  have hleaf : ∀ e ∈ (presentBytes f).zipIdx, depth e.2 = codeLength (assign (build f)) e.1 := by
    intro e he
    have hget := List.mem_zipIdx_iff_getElem?.1 he
    have hlt : e.2 < presentCount f := presentBytes_length f ▸ (List.getElem?_eq_some_iff.1 hget).1
    have hnode : (build f)[e.2]? = some (leafOf f e.1) := by
      rw [build_getElem?_leaf hlt]
      exact leavesOf_getElem?_eq_some.2 ⟨e.1, hget, rfl⟩
    obtain ⟨p, hp⟩ := htree.exists_path (List.getElem?_eq_some_iff.1 hnode).1
    rw [hdepth _ p hp, codeLength_of_some ((htree.codeAt_assign_iff_path h).2 ⟨e.2, _, hnode, hp⟩)]
  rw [queueBits_initialQueue, totalBits_eq_presentBytes, List.map_congr_left fun e he => by rw [hleaf e he]]
  conv_rhs => rw [← List.zipIdx_map_fst 0 (presentBytes f), List.map_map]
  rfl

/-! ### Kraft's inequality for codes of which none begins with another -/

theorem uniquelyDecodable_of_prefixFree {codes : Set Bits} (hnil : [] ∉ codes)
    (hfree : ∀ p ∈ codes, ∀ q ∈ codes, p <+: q → p = q) : InformationTheory.UniquelyDecodable codes := by
  have hne : ∀ p ∈ codes, p ≠ [] := fun p hp e => hnil (e ▸ hp)
  intro xs
  induction xs with
  | nil =>
    intro ys _ hys heq
    match ys with
    | [] => rfl
    | q :: _ => exact absurd (List.append_eq_nil_iff.1 heq.symm).1 (hne q (hys q List.mem_cons_self))
  | cons p xs ih =>
    intro ys hxs hys heq
    have hp := hxs p List.mem_cons_self
    match ys with
    | [] => exact absurd (List.append_eq_nil_iff.1 heq).1 (hne p hp)
    | q :: ys =>
      have hq := hys q List.mem_cons_self
      rw [List.flatten_cons, List.flatten_cons] at heq
      obtain rfl : p = q := by
        rcases List.prefix_or_prefix_of_prefix ⟨_, heq⟩ (List.prefix_append q _) with hpq | hqp
        · exact hfree p hp q hq hpq
        · exact (hfree q hq p hp hqp).symm
      rw [ih ys (fun w hw => hxs w (List.mem_cons_of_mem _ hw)) (fun w hw => hys w (List.mem_cons_of_mem _ hw))
        (List.append_cancel_left heq)]

/-- Of two or more byte values whose codes do not begin with one another none has the empty code. -/
theorem code_ne_nil {bytes : List Byte} {code : Byte → Bits} (hnodup : bytes.Nodup) (hlen : 2 ≤ bytes.length)
    (hfree : ∀ a ∈ bytes, ∀ b ∈ bytes, a ≠ b → ¬ code a <+: code b) {a : Byte} (ha : a ∈ bytes) : code a ≠ [] := by
  intro hnil
  obtain ⟨b, hb, hne⟩ : ∃ b ∈ bytes, b ≠ a := by
    by_contra! hall
    have := List.nodup_iff_count_le_one.1 hnodup a
    rw [List.eq_replicate_of_mem hall, List.count_replicate_self] at this
    omega
  exact hfree a ha b hb hne.symm (hnil ▸ List.nil_prefix)

theorem kraftSum_le_one {bytes : List Byte} {code : Byte → Bits} (hnodup : bytes.Nodup) (hlen : 2 ≤ bytes.length)
    (hfree : ∀ a ∈ bytes, ∀ b ∈ bytes, a ≠ b → ¬ code a <+: code b) :
    kraftSum (bytes.map fun b => (code b).length) ≤ 1 := by
  have hinj : ∀ a ∈ bytes, ∀ b ∈ bytes, code a <+: code b → a = b := fun a ha b hb hab =>
    by_contra fun hne => hfree a ha b hb hne hab
  have hcodes : (bytes.map code).Nodup :=
    hnodup.map_on fun a ha b hb e => hinj a ha b hb (e ▸ List.prefix_refl _)
  have hdec : InformationTheory.UniquelyDecodable ((bytes.map code).toFinset : Set Bits) := by
    refine uniquelyDecodable_of_prefixFree (fun hnil => ?_) fun p hp q hq hpq => ?_
    · obtain ⟨a, ha, hcode⟩ := List.mem_map.1 (List.mem_toFinset.1 hnil)
      exact code_ne_nil hnodup hlen hfree ha hcode
    · obtain ⟨a, ha, rfl⟩ := List.mem_map.1 (List.mem_toFinset.1 hp)
      obtain ⟨b, hb, rfl⟩ := List.mem_map.1 (List.mem_toFinset.1 hq)
      rw [hinj a ha b hb hpq]
  have hkraft := InformationTheory.kraft_mcmillan_inequality hdec
  rw [List.sum_toFinset _ hcodes, List.map_map] at hkraft
  rw [kraftSum, List.map_map]
  simpa [Function.comp_def] using hkraft

/-! ### The code of the tree is optimal -/

/-- The codes a table gives the counted byte values. -/
def tableCode (f : FreqTable) (table : CodeTable) : List WeightedLength :=
  (presentBytes f).map fun b => ⟨countAt f b, codeLength table b⟩

theorem bitsUsed_tableCode (f : FreqTable) (table : CodeTable) : bitsUsed (tableCode f table) = totalBits f table := by
  rw [totalBits_eq_presentBytes, bitsUsed, tableCode, List.map_map]
  rfl

theorem tableCode_codesQueue {f : FreqTable} {table : CodeTable} (h : 2 ≤ presentCount f)
    (hcoded : ∀ b, 0 < countAt f b → ∃ p, codeAt table b = some p)
    (hfree : ∀ a b p q, a ≠ b → codeAt table a = some p → codeAt table b = some q → ¬ p <+: q) :
    CodesQueue (initialQueue (leavesOf f)) (tableCode f table) := by
  constructor
  · rw [initialQueue_map_freq, leavesOf_eq_map, tableCode, List.map_map, List.map_map]
    rfl
  · rw [tableCode, List.map_map]
    refine kraftSum_le_one (code := fun b => (codeAt table b).getD []) (presentBytes_nodup f)
      (presentBytes_length f ▸ h) fun a ha b hb hne => ?_
    obtain ⟨p, hp⟩ := hcoded a (mem_presentBytes.1 ha)
    obtain ⟨q, hq⟩ := hcoded b (mem_presentBytes.1 hb)
    rw [hp, hq]
    exact hfree a b p q hne hp hq

/-- Settles O59: the lengths in the table meet Kraft's inequality, and no lengths that meet it beat the merges. -/
theorem treeCodeIsOptimal : Obligations.TreeCodeIsOptimal := by
  unfold Obligations.TreeCodeIsOptimal
  intro f table h hcoded hfree
  have hne : presentCount f ≠ 0 := by omega
  obtain ⟨depth, hdepth, hpath⟩ := (build_strictTree hne).exists_depths
  calc totalBits f (assign (build f))
    _ = queueBits depth (initialQueue (leavesOf f)) := (totalBits_build h hpath).symm
    _ ≤ bitsUsed (tableCode f table) :=
      queueBits_le_bitsUsed hne hdepth (hpath _ _ .root) (tableCode_codesQueue h hcoded hfree)
    _ = totalBits f table := bitsUsed_tableCode f table

end Sys2Proof.Machine
end

section
/-! PROOFS. PACK (R80 to R86): what `encode_bits` concatenates, the layout of the frame, and the three ways the command
ends. -/

namespace Sys2Proof.Machine

/-! ### The content bits -/

section
variable {data : List Byte} {table : CodeTable} {b : Bits}

/-- R80: bytes that all have codes encode to the codes in order. -/
theorem encodeBits_of_coded (h : ∀ d ∈ data, ∃ p, codeAt table d = some p) :
    encodeBits data table = some (data.map fun d => (codeAt table d).getD []).flatten := by
  induction data with
  | nil => rfl
  | cons d rest ih =>
    obtain ⟨p, hp⟩ := h d List.mem_cons_self
    have hrest := ih fun e he => h e (List.mem_cons_of_mem d he)
    simp [encodeBits, hp, hrest]

/-- R82: one byte without a code, wherever it stands, leaves `encode_bits` undefined. -/
theorem encodeBits_of_missing {d : Byte} (hd : d ∈ data) (h : codeAt table d = none) :
    encodeBits data table = none := by
  induction data with
  | nil => cases hd
  | cons e rest ih =>
    rw [encodeBits]
    rcases List.mem_cons.1 hd with rfl | hd
    · rw [h]
    · rw [ih hd]
      cases codeAt table e <;> rfl

theorem exists_encodeBits_iff :
    (∃ b, encodeBits data table = some b) ↔ ∀ d ∈ data, ∃ p, codeAt table d = some p := by
  refine ⟨fun ⟨b, hb⟩ d hd => Option.ne_none_iff_exists'.1 fun hnone => ?_, fun h => ⟨_, encodeBits_of_coded h⟩⟩
  rw [encodeBits_of_missing hd hnone] at hb
  cases hb

theorem eq_flatten_of_encodeBits (h : encodeBits data table = some b) :
    b = (data.map fun d => (codeAt table d).getD []).flatten := by
  rw [encodeBits_of_coded (exists_encodeBits_iff.1 ⟨b, h⟩)] at h
  exact (Option.some.inj h).symm

/-- A sum over the bytes of a sequence, taken byte value by byte value. -/
theorem sum_map_eq_sum_count (data : List Byte) (f : Byte → Nat) :
    (data.map f).sum = (allBytes.map fun d => data.count d * f d).sum := by
  calc (data.map f).sum
    _ = ∑ d ∈ data.toFinset, data.count d * f d := Finset.sum_list_map_count data f
    _ = ∑ d ∈ allBytes.toFinset, data.count d * f d :=
      Finset.sum_subset (fun d _ => List.mem_toFinset.2 (mem_allBytes d)) fun d _ hd => by
        rw [List.count_eq_zero.2 (mt List.mem_toFinset.2 hd), Nat.zero_mul]
    _ = (allBytes.map fun d => data.count d * f d).sum := List.sum_toFinset _ allBytes_nodup

/-- R78, R80: the bits the codes take for the counts of a byte sequence, byte value by byte value. -/
theorem totalBits_freqOf (data : List Byte) (table : CodeTable) : totalBits (freqOf data) table =
    (allBytes.map fun d => data.count d * ((codeAt table d).getD []).length).sum := by
  simp only [totalBits_eq, countAt_freqOf]

/-- R80: the content has as many bits as the codes take for the counts of the bytes. -/
theorem encodeBits_length (h : encodeBits data table = some b) : b.length = totalBits (freqOf data) table := by
  rw [eq_flatten_of_encodeBits h, List.length_flatten, List.map_map, totalBits_freqOf]
  exact sum_map_eq_sum_count data _

end

/-- Settles O28. -/
theorem encodeBitsConcatenatesCodes : Obligations.EncodeBitsConcatenatesCodes := by
  unfold Obligations.EncodeBitsConcatenatesCodes
  exact fun data table => ⟨exists_encodeBits_iff, fun b h =>
    ⟨eq_flatten_of_encodeBits h, (encodeBits_length h).trans (totalBits_freqOf data table)⟩⟩

/-! ### The frame -/

/-- R83: the pad count is 1 to 8. -/
theorem padCount_bounds (n : Nat) : 1 ≤ padCount n ∧ padCount n ≤ 8 := by unfold padCount; omega

/-- R83: content and padding are whole bytes. -/
theorem add_padCount (n : Nat) : n + padCount n = 8 * (1 + n / 8) := by unfold padCount; omega

/-- R34: the first eight bits of a bit-string are its first byte. -/
theorem bytesOfBits_bin8_append (v : Byte) (b : Bits) : bytesOfBits (bin8 v ++ b) = v :: bytesOfBits b := by
  have hlen : (bin8 v ++ b).length / 8 = b.length / 8 + 1 := by
    rw [List.length_append, bin8_length, Nat.add_div_left _ (by decide)]
  rw [bytesOfBits, hlen, takeBytes, List.take_left' (bin8_length v), List.drop_left' (bin8_length v), val_bin8,
    BitVec.ofNat_toNat, BitVec.setWidth_eq, bytesOfBits]

/-- R84: the first byte of a frame is its pad count, and the rest are the content and the padding. -/
theorem packBits_eq_cons (b : Bits) : packBits b =
    BitVec.ofNat 8 (padCount b.length) :: bytesOfBits (b ++ zeros (padCount b.length)) := by
  rw [packBits, frameBits, List.append_assoc, bytesOfBits_bin8_append]

/-- R85. -/
theorem packBits_length (b : Bits) : (packBits b).length = 2 + b.length / 8 := by
  rw [packBits, bytesOfBits_length, frameBits_length, Nat.add_assoc, add_padCount]
  omega

/-- R84: the bits of the bytes of the frame are the bits it was made of. -/
theorem bitsOfBytes_packBits (b : Bits) : bitsOfBytes (packBits b) = frameBits b := by
  refine bitsOfBytes_bytesOfBits ?_
  rw [frameBits_length, Nat.add_assoc, add_padCount]
  omega

/-- Settles O29. -/
theorem frameHasTheSpecsLayout : Obligations.FrameHasTheSpecsLayout := by
  unfold Obligations.FrameHasTheSpecsLayout
  intro b
  obtain ⟨hpos, hle⟩ := padCount_bounds b.length
  refine ⟨hpos, hle, rfl, ?_, bitsOfBytes_packBits b, packBits_length b, ?_⟩
  · rw [add_padCount, Nat.mul_mod_right]
  · rw [packBits_eq_cons, List.getElem?_cons_zero]

/-! ### The end of a command that writes OUTBUF -/

@[simp] theorem State.finish_ecode (e : Ending) (s : State) : (s.finish e).ecode = e.outcome.code :=
  State.setEcode_ecode e.outcome (s.setOutput e.bytes)

@[simp] theorem State.finish_output (e : Ending) (s : State) : (s.finish e).output = e.bytes :=
  State.setOutput_output e.bytes s

/-- U2: a byte outside the delivered result is drawn. -/
theorem State.byteOut_finish_of_ge {e : Ending} {s : State} {j : Nat} (h : e.bytes.length ≤ j) :
    (s.finish e).byteOut j = Config.freeOut (s.finish e).outDraw j := by
  simp [State.byteOut, Memory.read?_ofBytesFrom, h]

theorem statusWord_ok : statusWord .ok = 0x00#8 := rfl

/-- R28, R126: ending a command writes OUT_LEN, OUTBUF and STATUS and nothing else. -/
theorem State.finish_frame {e : Ending} {w : BitVec 8} (hw : statusWord e.outcome = w) (s : State) :
    s.finish e = { s with outLen := (s.finish e).outLen, outbuf := (s.finish e).outbuf,
                          outDraw := (s.finish e).outDraw, status := w } := by
  subst hw
  rfl

/-! ### The three ways PACK ends -/

section
variable {maxOut : Nat} {data : List Byte} {table : CodeTable} {b : Bits}

/-- R82, R125: a missing code is reported whatever the capacity is. -/
theorem packEnding_of_missing (h : encodeBits data table = none) :
    packEnding maxOut data table = .error .missingCode := by simp only [packEnding, h]

/-- R81: a frame that fits is delivered. -/
theorem packEnding_of_fits (h : encodeBits data table = some b) (hfits : 2 + b.length / 8 ≤ maxOut) :
    packEnding maxOut data table = ⟨.ok, packBits b⟩ := by
  simp only [packEnding, h, Ending.ofResult, packBits_length, Nat.not_lt.2 hfits, if_false]

/-- R86: a frame that does not fit is not delivered. -/
theorem packEnding_of_overflow (h : encodeBits data table = some b) (hover : maxOut < 2 + b.length / 8) :
    packEnding maxOut data table = .error .outputOverflow := by
  simp only [packEnding, h, Ending.ofResult, packBits_length, hover, if_true]

/-- R86: below two bytes no frame fits, so PACK ends in one of its two errors. -/
theorem packEnding_of_maxOut_lt (hmax : maxOut < 2) :
    packEnding maxOut data table = .error .missingCode ∨ packEnding maxOut data table = .error .outputOverflow := by
  cases h : encodeBits data table with
  | none => exact .inl (packEnding_of_missing h)
  | some b => exact .inr (packEnding_of_overflow h (by omega))

end

section
variable {s : State} {b : Bits}

theorem State.packPhase_of_missing (h : encodeBits s.input s.code = none) :
    s.packPhase = s.finish (.error .missingCode) := by rw [State.packPhase, packEnding_of_missing h]

theorem State.packPhase_of_fits (h : encodeBits s.input s.code = some b) (hfits : 2 + b.length / 8 ≤ s.caps.maxOut) :
    s.packPhase = s.finish ⟨.ok, packBits b⟩ := by rw [State.packPhase, packEnding_of_fits h hfits]

theorem State.packPhase_of_overflow (h : encodeBits s.input s.code = some b)
    (hover : s.caps.maxOut < 2 + b.length / 8) : s.packPhase = s.finish (.error .outputOverflow) := by
  rw [State.packPhase, packEnding_of_overflow h hover]

/-- R86: with MAX_OUT 0 or 1 PACK delivers nothing, on any input and with any code table. -/
theorem State.packPhase_of_maxOut_lt (hmax : s.caps.maxOut < 2) : s.packPhase.ecode ≠ 0#4 ∧ s.packPhase.outLen = 0 := by
  rw [State.packPhase]
  rcases packEnding_of_maxOut_lt hmax with he | he
  all_goals
    rw [he, State.finish_ecode]
    exact ⟨by decide, rfl⟩

end

/-- Settles O30. -/
theorem packDeliversTheFrame : Obligations.PackDeliversTheFrame := by
  unfold Obligations.PackDeliversTheFrame
  intro s b h hfits
  refine ⟨s.finish ⟨.ok, packBits b⟩, (exec_pack s).trans (congrArg _ (State.packPhase_of_fits h hfits)),
    State.finish_ecode _ s, packBits_length b, State.finish_output _ s, fun j hj => ?_,
    fun j => State.byteOut_finish_of_ge, fun i => rfl, State.finish_frame (e := ⟨.ok, packBits b⟩) statusWord_ok s⟩
  rw [State.byteOut_finish hj]
  exact List.getElem?_eq_getElem hj

/-- Settles O31. -/
theorem packReportsAMissingCode : Obligations.PackReportsAMissingCode := by
  unfold Obligations.PackReportsAMissingCode
  rintro s ⟨i, hi, hnone⟩
  have hmem : s.byteIn i ∈ s.input := List.mem_map_of_mem (List.mem_range.2 hi)
  have hphase := State.packPhase_of_missing (encodeBits_of_missing hmem hnone)
  exact ⟨_, (exec_pack s).trans (congrArg _ hphase), State.finish_ecode _ s, rfl⟩

/-- Settles O32: ENCODE packs with the capacity of the block, so its clause is PACK's. -/
theorem packReportsAnOverflow : Obligations.PackReportsAnOverflow := by
  unfold Obligations.PackReportsAnOverflow
  refine ⟨fun s b h hover => ?_, fun s i hi hmax => ?_⟩
  · have hphase := State.packPhase_of_overflow h hover
    exact ⟨_, (exec_pack s).trans (congrArg _ hphase), State.finish_ecode _ s, rfl⟩
  · rcases hi with rfl | rfl
    · exact ⟨_, exec_pack s, State.packPhase_of_maxOut_lt hmax⟩
    · exact ⟨_, exec_encode_eq_packPhase s, State.packPhase_of_maxOut_lt (s := s.tablePhases) hmax⟩

end Sys2Proof.Machine
end

section
/-! PROOFS. UNPACK and DECODE (R90 to R104): the content of a frame, where the decoder cuts it, that decoding inverts
encoding, and the three ways the commands end. -/

namespace Sys2Proof.Machine

/-! ### The content of a frame -/

@[simp] theorem unpackBits_nil : unpackBits [] = none := rfl

/-- R90, R92: a header above 8 or above the bits that remain is malformed; else the content is those bits less the
pad count. -/
theorem unpackBits_cons (h : Byte) (rest : List Byte) : unpackBits (h :: rest) =
    if 8 < h.toNat ∨ 8 * rest.length < h.toNat then none
    else some ((bitsOfBytes rest).take (8 * rest.length - h.toNat)) := by
  have hbits : (bin8 h ++ bitsOfBytes rest).drop 8 = bitsOfBytes rest := List.drop_left' (bin8_length h)
  by_cases h8 : 8 < h.toNat
  · simp [unpackBits, h8]
  · simp [unpackBits, hbits, h8]

theorem unpackBits_cons_eq_none_iff {h : Byte} {rest : List Byte} :
    unpackBits (h :: rest) = none ↔ 8 < h.toNat ∨ 8 * rest.length < h.toNat := by
  rw [unpackBits_cons]
  split <;> simp [*]

theorem unpackBits_cons_eq_some {h : Byte} {rest : List Byte} {b : Bits} (hb : unpackBits (h :: rest) = some b) :
    b = (bitsOfBytes rest).take (8 * rest.length - h.toNat) := by
  rw [unpackBits_cons] at hb
  split at hb
  · cases hb
  · exact (Option.some.inj hb).symm

/-- R83, R90: the pad count of a frame is the number of bits that follow its content. -/
theorem unpackBits_packBits (b : Bits) : unpackBits (packBits b) = some b := by
  obtain ⟨-, hle⟩ := padCount_bounds b.length
  have hpad : (BitVec.ofNat 8 (padCount b.length)).toNat = padCount b.length := by
    rw [BitVec.toNat_ofNat, Nat.mod_eq_of_lt (by omega)]
  have hsum := add_padCount b.length
  have hlen : (b ++ zeros (padCount b.length)).length = b.length + padCount b.length := by simp
  have hbits : bitsOfBytes (bytesOfBits (b ++ zeros (padCount b.length))) = b ++ zeros (padCount b.length) :=
    bitsOfBytes_bytesOfBits (by omega)
  have hbytes : 8 * (bytesOfBits (b ++ zeros (padCount b.length))).length = b.length + padCount b.length := by
    rw [← bitsOfBytes_length, hbits, hlen]
  rw [packBits_eq_cons, unpackBits_cons, hpad, hbytes, hbits, if_neg (by omega), Nat.add_sub_cancel,
    List.take_left' rfl]

/-- Settles O33. -/
theorem malformedHeadersAndContent : Obligations.MalformedHeadersAndContent := by
  unfold Obligations.MalformedHeadersAndContent
  refine ⟨unpackBits_packBits, fun y => ?_⟩
  cases y with
  | nil => exact ⟨by simp, fun b hb => nomatch hb⟩
  | cons h rest =>
    refine ⟨?_, fun b hb => ⟨h, rest, rfl, unpackBits_cons_eq_some hb⟩⟩
    simpa using unpackBits_cons_eq_none_iff

/-- Settles O34: the content of both frames is the same number of bits, and these agree. -/
theorem paddingBitsAreNotExamined : Obligations.PaddingBitsAreNotExamined := by
  unfold Obligations.PaddingBitsAreNotExamined
  intro h x y hlen hbits
  have htake : (bitsOfBytes x).take (8 * x.length - h.toNat) = (bitsOfBytes y).take (8 * x.length - h.toNat) := by
    refine List.ext_getElem? fun k => ?_
    rw [List.getElem?_take, List.getElem?_take]
    split
    · exact hbits k ‹_›
    · rfl
  rw [unpackBits_cons, unpackBits_cons, ← hlen, htake]

/-! ### Where the decoder cuts the content -/

section
variable {r : ReverseTable} {buf w t : Bits} {x : Bool} {b : Byte}

theorem decodeFrom_nil (r : ReverseTable) (buf : Bits) : decodeFrom r buf [] = ([], buf) := rfl

/-- R95: a buffer that has become a key is put out and emptied. -/
theorem decodeFrom_cons_of_key (h : rcodeAt r (buf ++ [x]) = some b) (t : Bits) :
    decodeFrom r buf (x :: t) = (b :: (decodeBits t r).1, (decodeBits t r).2) := by
  simp only [decodeFrom, h, decodeBits]

/-- R95: a buffer that is no key takes the next bit. -/
theorem decodeFrom_cons_of_no_key (h : rcodeAt r (buf ++ [x]) = none) (t : Bits) :
    decodeFrom r buf (x :: t) = decodeFrom r (buf ++ [x]) t := by
  simp only [decodeFrom, h]

/-- No non-empty beginning of the bit-string is a key. -/
def NoKeyBegins (r : ReverseTable) (t : Bits) : Prop := ∀ p, p <+: t → p ≠ [] → rcodeAt r p = none

/-- No proper non-empty beginning of the bit-string is a key. -/
def NoShorterKey (r : ReverseTable) (w : Bits) : Prop := ∀ p, p <+: w → p ≠ [] → p ≠ w → rcodeAt r p = none

/-- R95: `t` is cut into shortest matches, whose bytes are the first component of `d`, and a rest, the second, from
whose start nothing matches. -/
def CutsAtShortestMatches (r : ReverseTable) (t : Bits) (d : List Byte × Bits) : Prop :=
  ∃ ws : List Bits, t = ws.flatten ++ d.2 ∧ ws.map (rcodeAt r) = d.1.map some ∧
    (∀ w ∈ ws, w ≠ [] ∧ NoShorterKey r w) ∧ NoKeyBegins r d.2

theorem noKeyBegins_nil (r : ReverseTable) : NoKeyBegins r [] := fun _ hp hne => absurd (List.prefix_nil.1 hp) hne

/-- One bit after a buffer that holds no key, only the whole can be one. -/
theorem NoKeyBegins.append_singleton (h : NoKeyBegins r buf) (x : Bool) : NoShorterKey r (buf ++ [x]) :=
  fun p hp hne hproper => h p ((List.prefix_concat_iff.1 hp).resolve_left hproper) hne

theorem NoShorterKey.noKeyBegins (h : NoShorterKey r w) (hw : rcodeAt r w = none) : NoKeyBegins r w := by
  intro p hp hne
  by_cases hpw : p = w
  · rwa [hpw]
  · exact h p hp hne hpw

theorem CutsAtShortestMatches.of_noKeyBegins (h : NoKeyBegins r t) : CutsAtShortestMatches r t ([], t) :=
  ⟨[], rfl, rfl, fun _ hw => absurd hw List.not_mem_nil, h⟩

theorem CutsAtShortestMatches.cons {d : List Byte × Bits} (h : CutsAtShortestMatches r t d) (hne : w ≠ [])
    (hshort : NoShorterKey r w) (hkey : rcodeAt r w = some b) :
    CutsAtShortestMatches r (w ++ t) (b :: d.1, d.2) := by
  obtain ⟨ws, rfl, hbytes, hwords, hrest⟩ := h
  refine ⟨w :: ws, ?_, ?_, ?_, hrest⟩
  · rw [List.flatten_cons, List.append_assoc]
  · rw [List.map_cons, hkey, hbytes, List.map_cons]
  · exact List.forall_mem_cons.2 ⟨⟨hne, hshort⟩, hwords⟩

/-- R95, from a buffer that holds no key yet. -/
theorem decodeFrom_cuts (h : NoKeyBegins r buf) : CutsAtShortestMatches r (buf ++ t) (decodeFrom r buf t) := by
  induction t generalizing buf with
  | nil =>
    rw [decodeFrom_nil, List.append_nil]
    exact .of_noKeyBegins h
  | cons x t ih =>
    rw [List.append_cons]
    cases hkey : rcodeAt r (buf ++ [x]) with
    | none =>
      rw [decodeFrom_cons_of_no_key hkey]
      exact ih ((h.append_singleton x).noKeyBegins hkey)
    | some b =>
      rw [decodeFrom_cons_of_key hkey]
      exact (ih (noKeyBegins_nil r)).cons (by simp) (h.append_singleton x) hkey

end

/-- Settles O35: the buffer never holds a key, so the word put out is the shortest match. -/
theorem decoderTakesTheShortestMatch : Obligations.DecoderTakesTheShortestMatch := by
  unfold Obligations.DecoderTakesTheShortestMatch
  exact fun t r => decodeFrom_cuts (noKeyBegins_nil r)

/-! ### Decoding inverts encoding -/

section
variable {data : List Byte} {table : CodeTable} {r : ReverseTable} {buf w t b : Bits} {d : Byte}

/-- R95: bits that complete the shortest key from the buffer's start put out its byte. -/
theorem decodeFrom_append_of_shortest (hne : w ≠ []) (hkey : rcodeAt r (buf ++ w) = some d)
    (hshort : NoShorterKey r (buf ++ w)) :
    decodeFrom r buf (w ++ t) = (d :: (decodeBits t r).1, (decodeBits t r).2) := by
  induction w generalizing buf with
  | nil => exact absurd rfl hne
  | cons x w ih =>
    rw [List.append_cons] at hkey hshort
    cases w with
    | nil =>
      rw [List.append_nil] at hkey
      exact decodeFrom_cons_of_key hkey t
    | cons y w =>
      have hnone : rcodeAt r (buf ++ [x]) = none :=
        hshort _ (List.prefix_append _ _) (by simp) (by simp)
      rw [List.cons_append, decodeFrom_cons_of_no_key hnone]
      exact ih (by simp) hkey hshort

/-- R75, R24: a key of the inverse of a `PrefixCode` that begins a code is that code. -/
theorem PrefixCode.noShorterKey (hpre : PrefixCode table) (hinv : InverseTables table r)
    (hd : codeAt table d = some w) : NoShorterKey r w := by
  intro p hp _ hproper
  refine Option.eq_none_iff_forall_ne_some.2 fun c hc => ?_
  have hcode : codeAt table c = some p := (hinv c p).1 hc
  by_cases hcd : c = d
  · subst hcd
    exact hproper (Option.some.inj (hcode.symm.trans hd))
  · exact hpre.prefixFree c d p w hcd hcode hd hp

/-- R80: the content of a byte sequence is the code of its first byte, then the content of the others. -/
theorem encodeBits_cons_eq_some (h : encodeBits (d :: data) table = some b) :
    ∃ p q, codeAt table d = some p ∧ encodeBits data table = some q ∧ b = p ++ q := by
  rw [encodeBits] at h
  split at h
  · cases h
  · obtain ⟨q, hq, hb⟩ := Option.map_eq_some_iff.1 h
    exact ⟨_, q, ‹_›, hq, hb.symm⟩

/-- R104: each code of a `PrefixCode` is the shortest match where it stands. -/
theorem PrefixCode.decodeBits_of_encodeBits (hpre : PrefixCode table) (hinv : InverseTables table r)
    (h : encodeBits data table = some b) : decodeBits b r = (data, []) := by
  induction data generalizing b with
  | nil =>
    obtain rfl : [] = b := Option.some.inj h
    rfl
  | cons d data ih =>
    obtain ⟨p, q, hp, hq, rfl⟩ := encodeBits_cons_eq_some h
    calc decodeBits (p ++ q) r
      _ = (d :: (decodeBits q r).1, (decodeBits q r).2) :=
        decodeFrom_append_of_shortest (hpre.nonempty d p hp) ((hinv d p).2 hp) (hpre.noShorterKey hinv hp)
      _ = (d :: data, []) := by rw [ih hq]

end

/-- Settles O40: the decoder finds each code again as the shortest match from its start. -/
theorem decodingInvertsEncoding : Obligations.DecodingInvertsEncoding := by
  unfold Obligations.DecodingInvertsEncoding
  exact fun data table r b hpre hinv h => ⟨unpackBits_packBits b, hpre.decodeBits_of_encodeBits hinv h⟩

/-! ### The three ways UNPACK and DECODE end -/

section
variable {maxOut : Nat} {frame : List Byte} {r : ReverseTable} {b : Bits}

/-- R92: a malformed frame is reported whatever the capacity is. -/
theorem unpackEnding_of_malformed (h : unpackBits frame = none) :
    unpackEnding maxOut frame r = .error .malformedStream := by simp only [unpackEnding, h]

/-- R96: so are bits left at the end. -/
theorem unpackEnding_of_unresolved (h : unpackBits frame = some b) (hleft : (decodeBits b r).2 ≠ []) :
    unpackEnding maxOut frame r = .error .malformedStream := by
  obtain ⟨x, rest, hd⟩ := List.exists_cons_of_ne_nil hleft
  have hpair : decodeBits b r = ((decodeBits b r).1, x :: rest) := Prod.ext rfl hd
  simp only [unpackEnding, h]
  rw [hpair]

/-- R98, R99: content that resolves completely is delivered if it fits. -/
theorem unpackEnding_of_resolved (h : unpackBits frame = some b) (hleft : (decodeBits b r).2 = []) :
    unpackEnding maxOut frame r = .ofResult maxOut (decodeBits b r).1 := by
  have hpair : decodeBits b r = ((decodeBits b r).1, []) := Prod.ext rfl hleft
  simp only [unpackEnding, h]
  rw [hpair]

end

theorem exec_unpack_or_decode {i : Instr} (hi : i = .unpack ∨ i = .decode) (s : State) :
    exec i s = .next s.unpackPhase := by
  rcases hi with rfl | rfl
  · exact exec_unpack s
  · exact exec_decode s

section
variable {s : State} {b : Bits}

theorem State.unpackPhase_of_malformed
    (h : unpackBits s.input = none ∨ ∃ b, unpackBits s.input = some b ∧ (decodeBits b s.rcode).2 ≠ []) :
    s.unpackPhase = s.finish (.error .malformedStream) := by
  rw [State.unpackPhase]
  rcases h with h | ⟨b, h, hleft⟩
  · rw [unpackEnding_of_malformed h]
  · rw [unpackEnding_of_unresolved h hleft]

theorem State.unpackPhase_of_fits (h : unpackBits s.input = some b) (hleft : (decodeBits b s.rcode).2 = [])
    (hfits : (decodeBits b s.rcode).1.length ≤ s.caps.maxOut) :
    s.unpackPhase = s.finish ⟨.ok, (decodeBits b s.rcode).1⟩ := by
  rw [State.unpackPhase, unpackEnding_of_resolved h hleft, Ending.ofResult, if_neg (Nat.not_lt.2 hfits)]

theorem State.unpackPhase_of_overflow (h : unpackBits s.input = some b) (hleft : (decodeBits b s.rcode).2 = [])
    (hover : s.caps.maxOut < (decodeBits b s.rcode).1.length) :
    s.unpackPhase = s.finish (.error .outputOverflow) := by
  rw [State.unpackPhase, unpackEnding_of_resolved h hleft, Ending.ofResult, if_pos hover]

end

/-- Settles O36. -/
theorem unpackDeliversTheBytes : Obligations.UnpackDeliversTheBytes := by
  unfold Obligations.UnpackDeliversTheBytes
  intro s i b out hi h hdec hfits
  have hphase : s.unpackPhase = s.finish ⟨.ok, out⟩ := by
    rw [State.unpackPhase_of_fits h (by rw [hdec]) (by rwa [hdec]), hdec]
  refine ⟨s.finish ⟨.ok, out⟩, (exec_unpack_or_decode hi s).trans (congrArg _ hphase), State.finish_ecode _ s, rfl,
    State.finish_output _ s, fun j hj => ?_, fun j => State.byteOut_finish_of_ge, fun k => rfl,
    State.finish_frame (e := ⟨.ok, out⟩) statusWord_ok s⟩
  rw [State.byteOut_finish hj]
  exact List.getElem?_eq_getElem hj

/-- Settles O37. -/
theorem unpackReportsItsErrors : Obligations.UnpackReportsItsErrors := by
  unfold Obligations.UnpackReportsItsErrors
  refine fun s i hi => ⟨fun h => ?_, fun b h hleft hover => ?_⟩
  · have hphase := State.unpackPhase_of_malformed h
    exact ⟨_, (exec_unpack_or_decode hi s).trans (congrArg _ hphase), State.finish_ecode _ s, rfl⟩
  · have hphase := State.unpackPhase_of_overflow h hleft hover
    exact ⟨_, (exec_unpack_or_decode hi s).trans (congrArg _ hphase), State.finish_ecode _ s, rfl⟩

/-- Settles O38. -/
theorem decodeIsUnpack : Obligations.DecodeIsUnpack := by
  unfold Obligations.DecodeIsUnpack
  exact ⟨rfl, fun s => (exec_decode s).trans (exec_unpack s).symm⟩

/-- R102: a table without keys resolves nothing. -/
theorem decodeFrom_of_no_keys {r : ReverseTable} (h : ∀ p, rcodeAt r p = none) (buf t : Bits) :
    decodeFrom r buf t = ([], buf ++ t) := by
  induction t generalizing buf with
  | nil => rw [decodeFrom_nil, List.append_nil]
  | cons x t ih => rw [decodeFrom_cons_of_no_key (h _), ih, ← List.append_cons]

/-- Settles O39: without keys every bit of the content is left. -/
theorem emptyTableDecodesOnlyEmptyContent : Obligations.EmptyTableDecodesOnlyEmptyContent := by
  unfold Obligations.EmptyTableDecodesOnlyEmptyContent
  intro s i b hi hkeys h
  have hdec : decodeBits b s.rcode = ([], b) := decodeFrom_of_no_keys hkeys [] b
  refine ⟨s.unpackPhase, exec_unpack_or_decode hi s, ?_⟩
  by_cases hb : b = []
  · subst hb
    have hphase : s.unpackPhase = s.finish ⟨.ok, []⟩ := by
      rw [State.unpackPhase_of_fits h (by rw [hdec]) (by simp [hdec]), hdec]
    rw [hphase]
    exact ⟨rfl, fun _ => State.finish_ecode _ s, fun hne => absurd rfl hne⟩
  · have hphase := State.unpackPhase_of_malformed (.inr ⟨b, h, by rwa [hdec]⟩)
    rw [hphase]
    exact ⟨rfl, fun he => absurd he hb, fun _ => State.finish_ecode _ s⟩

end Sys2Proof.Machine
end

section
/-! PROOFS. ENCODE and CLEAR (R105 to R114): the codes an encode makes and the bits they take, the two ways ENCODE ends,
the frames it writes, the transactions of a host script (R59), and the round trip of LOAD, ENCODE, XFER, DECODE (R110). -/

namespace Sys2Proof.Machine

/-! ### The codes of an encode -/

/-- R74: the byte values with a code are those of the leaves, whatever NODE holds. -/
theorem TreeTable.exists_codeAt_assign_iff {nodes : List Node} (h : TreeTable nodes) {b : Byte} :
    (∃ p, codeAt (assign nodes) b = some p) ↔ ∃ f, .leaf b f ∈ nodes := by
  rcases h with rfl | ⟨n, h⟩
  · simp [assign_nil]
  · exact h.exists_codeAt_assign_iff

/-- R107: the byte values with a code are those that occur. -/
theorem exists_codeAt_codesFor_iff {data : List Byte} {b : Byte} :
    (∃ p, codeAt (codesFor data) b = some p) ↔ b ∈ data := by
  rw [codesFor, (build_treeTable _).exists_codeAt_assign_iff]
  simp only [leaf_mem_build, countAt_freqOf, exists_eq_left', List.count_pos_iff]

/-- R107: no byte of the input is without a code. -/
theorem exists_encodeBits_codesFor (data : List Byte) : ∃ b, encodeBits data (codesFor data) = some b :=
  exists_encodeBits_iff.2 fun _ hd => exists_codeAt_codesFor_iff.2 hd

theorem codesFor_prefixCode (data : List Byte) : PrefixCode (codesFor data) :=
  assign_prefixCode (build_treeTable _)

theorem codesFor_inverseTables (data : List Byte) : InverseTables (codesFor data) (inverse (codesFor data)) :=
  (codesFor_prefixCode data).inverse_tables

/-! ### The bits an encode takes -/

theorem encodeBits_codesFor_length {data : List Byte} {b : Bits} (h : encodeBits data (codesFor data) = some b) :
    b.length = contentLength data := encodeBits_length h

/-- R114: the content length, input byte by input byte. -/
theorem contentLength_eq_sum (data : List Byte) :
    contentLength data = (data.map (codeLength (codesFor data))).sum :=
  (totalBits_freqOf data (codesFor data)).trans (sum_map_eq_sum_count data (codeLength (codesFor data))).symm

/-- R76: no input byte takes more than 255 bits. -/
theorem codeLength_codesFor_le {data : List Byte} {d : Byte} (hd : d ∈ data) :
    codeLength (codesFor data) d ≤ 255 := by
  obtain ⟨p, hp⟩ := exists_codeAt_codesFor_iff.2 hd
  rw [codeLength_of_some hp]
  exact (codesFor_prefixCode data).short d p hp

theorem contentLength_le (data : List Byte) : contentLength data ≤ 255 * data.length := by
  have hle : ∀ n ∈ data.map (codeLength (codesFor data)), n ≤ 255 := by
    simpa using fun d hd => codeLength_codesFor_le hd
  have hsum := List.sum_le_card_nsmul _ 255 hle
  rw [contentLength_eq_sum]
  simpa [Nat.mul_comm] using hsum

/-! ### One byte value repeated -/

section
variable {n : Nat} (b : Byte) (hn : 1 ≤ n)
include hn

/-- R71: copies of one byte value make a tree of a single leaf. -/
theorem build_freqOf_replicate : build (freqOf (List.replicate n b)) = [.leaf b n] := by
  have hcount : countAt (freqOf (List.replicate n b)) b = n := by simp
  have hother : ∀ c, c ≠ b → countAt (freqOf (List.replicate n b)) c = 0 := fun c hc => by
    simp [List.count_replicate, hc.symm]
  rw [build_eq_singleton (by omega) hother, hcount]

/-- R72: the code of a single leaf is "0". -/
theorem codeAt_codesFor_replicate : codeAt (codesFor (List.replicate n b)) b = some [false] := by
  have hcodes : codesFor (List.replicate n b) = setCode CodeTable.empty b [false] := by
    rw [codesFor, build_freqOf_replicate b hn]; rfl
  rw [hcodes, codeAt_setCode, if_pos rfl]

end

/-- R108: each of the copies takes one bit, a 0. -/
theorem encodeBits_replicate (n : Nat) (b : Byte) :
    encodeBits (List.replicate n b) (codesFor (List.replicate n b)) = some (zeros n) := by
  obtain ⟨bits, hbits⟩ := exists_encodeBits_codesFor (List.replicate n b)
  rw [hbits, eq_flatten_of_encodeBits hbits, List.map_replicate]
  rcases Nat.eq_zero_or_pos n with rfl | hn
  · rfl
  · rw [codeAt_codesFor_replicate b hn, Option.getD_some, List.flatten_replicate_singleton, zeros]

theorem contentLength_replicate (n : Nat) (b : Byte) : contentLength (List.replicate n b) = n := by
  rw [← encodeBits_codesFor_length (encodeBits_replicate n b), zeros_length]

theorem bitsOfBytes_replicate_zero (k : Nat) : bitsOfBytes (List.replicate k 0x00#8) = zeros (8 * k) := by
  induction k with
  | zero => rfl
  | succ k ih =>
    have hbin : bin8 0x00#8 = zeros 8 := by decide
    rw [List.replicate_succ, bitsOfBytes_cons, ih, hbin, Nat.mul_succ, Nat.add_comm]
    exact List.replicate_append_replicate

/-- R113: the frame of `n` zero bits. -/
theorem packBits_zeros (n : Nat) :
    packBits (zeros n) = BitVec.ofNat 8 (8 - n % 8) :: List.replicate (n / 8 + 1) 0x00#8 := by
  have hbits : zeros n ++ zeros (padCount n) = bitsOfBytes (List.replicate (n / 8 + 1) 0x00#8) := by
    rw [bitsOfBytes_replicate_zero, Nat.add_comm (n / 8), ← add_padCount]
    exact List.replicate_append_replicate
  rw [packBits_eq_cons, zeros_length, hbits, bytesOfBits_bitsOfBytes, padCount]

/-- Settles O48: no code has more than 255 bits, and the code of a single byte value has one. -/
theorem contentLengthIsBounded : Obligations.ContentLengthIsBounded := by
  unfold Obligations.ContentLengthIsBounded
  refine fun data => ⟨contentLength_le data, fun b hb => ?_⟩
  rw [List.eq_replicate_of_mem hb, contentLength_replicate, List.length_replicate]

/-! ### The two ways ENCODE ends -/

/-- R105, R106: FREQ, NODE, CODE and RCODE are those of an encode of `data`. -/
structure State.HoldsTablesOf (data : List Byte) (t : State) : Prop where
  freq_eq : t.freq = freqOf data
  node_eq : t.node = build t.freq
  nnodes_eq : t.nnodes = t.node.length
  code_eq : t.code = assign t.node
  inverse : InverseTables t.code t.rcode

section
variable (s : State) (e : Ending)

theorem State.finish_tablePhases_code : (s.tablePhases.finish e).code = codesFor s.input := State.tablePhases_code s

theorem State.finish_tablePhases_rcode : (s.tablePhases.finish e).rcode = inverse (codesFor s.input) :=
  State.tablePhases_rcode s

/-- R106: the tables are those of the input however ENCODE ends. -/
theorem State.finish_tablePhases_holdsTables : (s.tablePhases.finish e).HoldsTablesOf s.input where
  freq_eq := rfl
  node_eq := rfl
  nnodes_eq := rfl
  code_eq := State.tablePhases_code s
  inverse := by
    rw [State.finish_tablePhases_code, State.finish_tablePhases_rcode]
    exact codesFor_inverseTables s.input

/-- R105: ENCODE writes the tables, OUT_LEN, OUTBUF and STATUS and nothing else. -/
theorem State.finish_tablePhases_frame {w : BitVec 8} (hw : statusWord e.outcome = w) : s.tablePhases.finish e =
    { s with freq := (s.tablePhases.finish e).freq, node := (s.tablePhases.finish e).node,
             nnodes := (s.tablePhases.finish e).nnodes, nodeDraw := (s.tablePhases.finish e).nodeDraw,
             code := (s.tablePhases.finish e).code, rcode := (s.tablePhases.finish e).rcode,
             outLen := (s.tablePhases.finish e).outLen, outbuf := (s.tablePhases.finish e).outbuf,
             outDraw := (s.tablePhases.finish e).outDraw, status := w } := by
  subst hw
  rfl

end

section
variable {s : State}

/-- R105: a frame that fits is delivered. -/
theorem exec_encode_of_fits (hfits : 2 + contentLength s.input / 8 ≤ s.caps.maxOut) :
    ∃ b, encodeBits s.input (codesFor s.input) = some b ∧
      exec .encode s = .next (s.tablePhases.finish ⟨.ok, packBits b⟩) := by
  obtain ⟨b, hb⟩ := exists_encodeBits_codesFor s.input
  have hphase := State.packPhase_of_fits (s := s.tablePhases) (by rwa [State.tablePhases_code])
    (by rwa [encodeBits_codesFor_length hb])
  exact ⟨b, hb, (exec_encode_eq_packPhase s).trans (congrArg _ hphase)⟩

/-- R106: a frame that does not fit is not. -/
theorem exec_encode_of_overflow (hover : s.caps.maxOut < 2 + contentLength s.input / 8) :
    exec .encode s = .next (s.tablePhases.finish (.error .outputOverflow)) := by
  obtain ⟨b, hb⟩ := exists_encodeBits_codesFor s.input
  have hphase := State.packPhase_of_overflow (s := s.tablePhases) (by rwa [State.tablePhases_code])
    (by rwa [encodeBits_codesFor_length hb])
  exact (exec_encode_eq_packPhase s).trans (congrArg _ hphase)

end

/-- R107: ENCODE ends well or in OutputOverflow. -/
theorem exec_encode_cases (s : State) :
    ∃ e, exec .encode s = .next (s.tablePhases.finish e) ∧ (e.outcome = .ok ∨ e.outcome = .outputOverflow) := by
  rcases Nat.lt_or_ge s.caps.maxOut (2 + contentLength s.input / 8) with hover | hfits
  · exact ⟨_, exec_encode_of_overflow hover, .inr rfl⟩
  · obtain ⟨b, -, hexec⟩ := exec_encode_of_fits hfits
    exact ⟨_, hexec, .inl rfl⟩

/-- Settles O42: the tree has a leaf for each byte value that occurs, and every leaf has a code. -/
theorem encodeNeverMissesACode : Obligations.EncodeNeverMissesACode := by
  unfold Obligations.EncodeNeverMissesACode
  intro s
  obtain ⟨e, hexec, hout⟩ := exec_encode_cases s
  refine ⟨_, hexec, ?_⟩
  rw [State.finish_tablePhases_code, State.finish_ecode]
  refine ⟨?_, exists_encodeBits_codesFor s.input, fun b => exists_codeAt_codesFor_iff⟩
  rcases hout with hout | hout <;> rw [hout] <;> decide

/-- Settles O43. -/
theorem encodeDeliversTheFrame : Obligations.EncodeDeliversTheFrame := by
  unfold Obligations.EncodeDeliversTheFrame
  intro s hfits
  obtain ⟨b, hb, hexec⟩ := exec_encode_of_fits hfits
  obtain ⟨hfreq, hnode, hnnodes, hcode, hinverse⟩ := s.finish_tablePhases_holdsTables ⟨.ok, packBits b⟩
  exact ⟨_, b, hexec, State.finish_ecode _ _, hfreq, hnode, hnnodes, hcode, hinverse,
    (congrArg _ (State.finish_tablePhases_code s _)).trans hb, encodeBits_codesFor_length hb, packBits_length b,
    State.finish_output _ _, fun j => State.byteOut_finish_of_ge, fun i => rfl,
    s.finish_tablePhases_frame ⟨.ok, packBits b⟩ statusWord_ok⟩

/-- Settles O44. -/
theorem encodeOverflowKeepsTheNewTables : Obligations.EncodeOverflowKeepsTheNewTables := by
  unfold Obligations.EncodeOverflowKeepsTheNewTables
  intro s hover
  obtain ⟨hfreq, hnode, hnnodes, hcode, hinverse⟩ := s.finish_tablePhases_holdsTables (.error .outputOverflow)
  exact ⟨_, exec_encode_of_overflow hover, State.finish_ecode _ _, rfl, hfreq, hnode, hnnodes, hcode, hinverse, rfl⟩

/-- Settles O45: the input is copies of the one byte value. -/
theorem oneByteValueRepeated : Obligations.OneByteValueRepeated := by
  unfold Obligations.OneByteValueRepeated
  intro s b hpos hbytes hfits
  have hinput : s.input = List.replicate s.inLen b := by
    refine List.eq_replicate_iff.2 ⟨s.input_length, ?_⟩
    simpa [State.input] using hbytes
  obtain ⟨bits, hbits, hexec⟩ := exec_encode_of_fits (s := s) (by rwa [hinput, contentLength_replicate])
  obtain rfl : bits = zeros s.inLen := by
    rw [hinput, encodeBits_replicate] at hbits
    exact (Option.some.inj hbits).symm
  obtain ⟨hfreq, hnode, hnnodes, -, -⟩ := s.finish_tablePhases_holdsTables ⟨.ok, packBits (zeros s.inLen)⟩
  have hleaf := build_freqOf_replicate b hpos
  rw [hfreq, hinput, hleaf] at hnode
  refine ⟨_, hexec, State.finish_ecode _ _, ?_, ?_, hnode, ?_, ?_⟩
  · rw [hfreq, hinput, countAt_freqOf, List.count_replicate_self]
  · rw [hnnodes, hnode]; rfl
  · rw [State.finish_tablePhases_code, hinput, codeAt_codesFor_replicate b hpos]
  · rw [State.finish_output, packBits_zeros]

/-! ### The frames PACK and ENCODE write -/

/-- R112: a packing that ends well has delivered the frame of the input's codes. -/
theorem State.output_packPhase_of_ok {s : State} (h : s.packPhase.ecode = 0#4) :
    ∃ b, encodeBits s.input s.code = some b ∧ s.packPhase.output = packBits b ∧
      s.packPhase.outLen = (packBits b).length := by
  cases hb : encodeBits s.input s.code with
  | none =>
    rw [State.packPhase_of_missing hb, State.finish_ecode] at h
    exact absurd h (by decide)
  | some b =>
    rcases Nat.lt_or_ge s.caps.maxOut (2 + b.length / 8) with hover | hfits
    · rw [State.packPhase_of_overflow hb hover, State.finish_ecode] at h
      exact absurd h (by decide)
    · rw [State.packPhase_of_fits hb hfits]
      exact ⟨b, rfl, State.finish_output _ s, rfl⟩

/-- R83: the pad count fits the header byte. -/
theorem toNat_ofNat_padCount (n : Nat) : (BitVec.ofNat 8 (padCount n)).toNat = padCount n := by
  obtain ⟨-, hle⟩ := padCount_bounds n
  rw [BitVec.toNat_ofNat, Nat.mod_eq_of_lt (by omega)]

/-- R83, R84: a frame ends in as many zero bits as its pad count says. -/
theorem drop_bitsOfBytes_packBits (b : Bits) :
    (bitsOfBytes (packBits b)).drop (8 * (packBits b).length - padCount b.length) = zeros (padCount b.length) := by
  have hlen : 8 * (packBits b).length = 8 + b.length + padCount b.length := by
    rw [← bitsOfBytes_length, bitsOfBytes_packBits, frameBits_length]
  rw [bitsOfBytes_packBits, frameBits, hlen, Nat.add_sub_cancel]
  exact List.drop_left' (by simp)

/-- Settles O46: ENCODE's last phase is PACK's. -/
theorem paddingIsCorrect : Obligations.PaddingIsCorrect := by
  unfold Obligations.PaddingIsCorrect
  intro s t i hi hexec hok
  obtain ⟨u, hinput, rfl⟩ : ∃ u : State, u.input = s.input ∧ u.packPhase = t := by
    rcases hi with rfl | rfl
    · exact ⟨s, rfl, Host.Outcome.next.inj hexec⟩
    · exact ⟨s.tablePhases, rfl, Host.Outcome.next.inj hexec⟩
  obtain ⟨b, hb, houtput, houtLen⟩ := State.output_packPhase_of_ok hok
  obtain ⟨hpos, hle⟩ := padCount_bounds b.length
  refine ⟨BitVec.ofNat 8 (padCount b.length), ?_⟩
  rw [houtput, houtLen, toNat_ofNat_padCount, State.packPhase_code, ← hinput, hb]
  exact ⟨by rw [packBits_eq_cons, List.getElem?_cons_zero], hpos, hle, drop_bitsOfBytes_packBits b,
    unpackBits_packBits b⟩

/-- Settles O41. -/
theorem encodeIsTheFourCommands : Obligations.EncodeIsTheFourCommands := by
  unfold Obligations.EncodeIsTheFourCommands
  exact fun s => ⟨_, _, _, _, exec_count s, exec_build _, exec_assign _, exec_pack _, exec_encode s⟩

/-- Settles O50: CLEAR writes the tables and the output as the reset state holds them. -/
theorem clearGivesFreshTables : Obligations.ClearGivesFreshTables := by
  unfold Obligations.ClearGivesFreshTables
  refine ⟨rfl, fun s => ⟨s.clearPhase, exec_clear s, State.setEcode_ecode _ _, fun b => ?_, fun b => ?_, rcodeAt_nil,
    rfl, rfl, fun i => rfl, fun j => rfl, rfl⟩⟩
  · rw [State.clearPhase_freq, countAt_zero]
  · rw [State.clearPhase_code, codeAt_empty]

/-! ### The transactions of a host script -/

theorem takeEvent_read (a : Addr) (s : State) : takeEvent (.txn (.read a)) s = hostRead a s := rfl

theorem takeEvent_write (a : Addr) (v : Nat) (s : State) : takeEvent (.txn (.write a v)) s = hostWrite a v s := rfl

theorem issueAll_cons_of_next {e : Event} {es : List Event} {s t : State} (h : takeEvent e s = .next t) :
    issueAll (e :: es) s = issueAll es t := by
  rw [issueAll, issue_eq, h]

theorem issueAll_append_of_next {es fs : List Event} {s t : State} (h : issueAll es s = .next t) :
    issueAll (es ++ fs) s = issueAll fs t := by
  induction es generalizing s with
  | nil => rw [Host.Outcome.next.inj h, List.nil_append]
  | cons e es ih =>
    rw [issueAll, issue_eq] at h
    split at h
    · rw [List.cons_append, issueAll_cons_of_next ‹_›]
      exact ih h
    · cases h
    · cases h

theorem runScript_cons_of_next {l : ScriptLine} {ls : List ScriptLine} {s t : State}
    (h : issueAll (expandLine l s) s = .next t) : runScript (l :: ls) s = runScript ls t := by
  rw [runScript, h]

/-- A command line is the command, with its outcome as the response. -/
theorem issueAll_command {i : Instr} {s t : State} (h : exec i s = .next t) :
    issueAll (expandLine (.command i) s) s = .next (t.respond (.outcome t.ecode)) := by
  refine issueAll_cons_of_next ?_
  calc hostWrite cmdAddr (encode i).toNat s
    _ = commandWrite (encode i) s := hostWrite_cmdAddr (encode i) s
    _ = .next (t.respond (.outcome t.ecode)) := commandWrite_of_decode (decode_eq_ok_iff_encode.2 rfl) h

/-- R38: reads in range change nothing but the response. -/
theorem issueAll_reads {addrs : List Addr} {s : State} (h : ∀ a ∈ addrs, a.wf s.caps = true) :
    ∃ r, issueAll (addrs.map fun a => .txn (.read a)) s = .next { s with response := r } := by
  induction addrs generalizing s with
  | nil => exact ⟨s.response, rfl⟩
  | cons a addrs ih =>
    obtain ⟨ha, haddrs⟩ := List.forall_mem_cons.1 h
    obtain ⟨e, he⟩ := exists_resolve_iff.2 ha
    rw [List.map_cons, issueAll_cons_of_next ((takeEvent_read a s).trans (hostRead_of_resolve he))]
    exact ih (s := { s with response := some (.data (s.readElement e)) }) haddrs

/-- All that LOAD does (R59): the input is the bytes loaded, and everything else but the response is as before. -/
def State.LoadedWith (bytes : List Byte) (s t : State) : Prop :=
  t.input = bytes ∧ t = { s with inLen := bytes.length, inbuf := t.inbuf, response := t.response }

/-- The writes of LOAD from index `i` on. -/
theorem issueAll_loadEventsFrom {i n : Nat} {bytes : List Byte} {s : State} (hi : i + bytes.length ≤ s.caps.maxIn)
    (hn : n ≤ s.caps.maxIn) :
    ∃ t, issueAll (loadEventsFrom i n bytes) s = .next t ∧
      t = { s with inLen := n, inbuf := t.inbuf, response := t.response } ∧
      (∀ j, j < i → t.byteIn j = s.byteIn j) ∧ ∀ k, k < bytes.length → bytes[k]? = some (t.byteIn (i + k)) := by
  induction bytes generalizing i s with
  | nil =>
    refine ⟨(s.writeInLen n).respond .written, rfl, ?_, fun j _ => ?_, by simp⟩
    · rw [State.writeInLen, if_pos hn]; rfl
    · rw [State.writeInLen, if_pos hn]; rfl
  | cons b bytes ih =>
    rw [List.length_cons] at hi
    obtain ⟨t, ht, hframe, hbelow, hbytes⟩ := ih (s := (s.writeByteIn i b).respond .written) (i := i + 1)
      (by simpa using (by omega : i + 1 + bytes.length ≤ s.caps.maxIn)) hn
    have hwrite := hostWrite_inbuf (s := s) (i := i) (by omega) b
    refine ⟨t, (issueAll_cons_of_next ((takeEvent_write _ _ s).trans hwrite)).trans ht, hframe, fun j hj => ?_,
      fun k hk => ?_⟩
    · rw [hbelow j (by omega)]
      exact (State.byteIn_writeByteIn i j b s).trans (if_neg hj.ne)
    · cases k with
      | zero =>
        rw [List.getElem?_cons_zero, Nat.add_zero, hbelow i (Nat.lt_succ_self i)]
        exact congrArg some ((State.byteIn_writeByteIn i i b s).trans (if_pos rfl)).symm
      | succ k =>
        rw [List.getElem?_cons_succ, Nat.add_comm k, ← Nat.add_assoc]
        exact hbytes k (Nat.lt_of_succ_lt_succ hk)

/-- LOAD loads its bytes (R59). -/
theorem issueAll_load {bytes : List Byte} {s : State} (h : bytes.length ≤ s.caps.maxIn) :
    ∃ t, issueAll (expandLine (.load bytes) s) s = .next t ∧ s.LoadedWith bytes t := by
  obtain ⟨t, ht, hframe, -, hbytes⟩ := issueAll_loadEventsFrom (i := 0) (by simpa using h) h
  have hlen : t.inLen = bytes.length := by rw [hframe]
  refine ⟨t, ht, List.ext_getElem? fun k => ?_, hframe⟩
  rcases Nat.lt_or_ge k bytes.length with hk | hk
  · rw [State.input_getElem? (hlen ▸ hk), hbytes k hk, Nat.zero_add]
  · rw [List.getElem?_eq_none hk, List.getElem?_eq_none (by rwa [State.input_length, hlen])]

@[simp] theorem State.output_length (s : State) : s.output.length = s.outLen := by simp [State.output]

/-- XFER loads the output (R59). -/
theorem issueAll_xfer {s : State} (hout : s.outLen ≤ s.caps.maxOut) (hin : s.outLen ≤ s.caps.maxIn) :
    ∃ t, issueAll (expandLine .xfer s) s = .next t ∧ s.LoadedWith s.output t := by
  have hreads : .txn (.read ⟨0, 3⟩) :: readOutputEvents s.outLen =
      (⟨0, 3⟩ :: (List.range s.outLen).map fun j => (⟨2, j⟩ : Addr)).map fun a => .txn (.read a) := by
    simp [readOutputEvents]
  obtain ⟨r, hr⟩ := issueAll_reads (s := s) (addrs := ⟨0, 3⟩ :: (List.range s.outLen).map fun j => ⟨2, j⟩) (by
    simpa [Addr.wf, spaceEntries] using fun j hj => Nat.lt_of_lt_of_le hj hout)
  obtain ⟨t, ht, hloaded⟩ := issueAll_load (bytes := s.output) (s := { s with response := r }) (by simpa using hin)
  refine ⟨t, ?_, hloaded⟩
  rw [expandLine, State.output_length] at ht
  rw [expandLine, hreads, issueAll_append_of_next hr, ht]

/-! ### The round trip -/

theorem issueAll_encode_of_fits {s : State} (hfits : 2 + contentLength s.input / 8 ≤ s.caps.maxOut) :
    ∃ b t, encodeBits s.input (codesFor s.input) = some b ∧
      issueAll (expandLine (.command .encode) s) s = .next t ∧ t.caps = s.caps ∧ t.output = packBits b ∧
      t.rcode = inverse (codesFor s.input) := by
  obtain ⟨b, hb, hexec⟩ := exec_encode_of_fits hfits
  exact ⟨b, _, hb, issueAll_command hexec, rfl, State.finish_output _ _, State.finish_tablePhases_rcode s _⟩

theorem issueAll_decode_of_fits {s : State} {b : Bits} {data : List Byte} (hinput : s.input = packBits b)
    (hdata : decodeBits b s.rcode = (data, [])) (hfits : data.length ≤ s.caps.maxOut) :
    ∃ t, issueAll (expandLine (.command .decode) s) s = .next t ∧ t.ecode = 0#4 ∧ t.outLen = data.length ∧
      t.output = data := by
  have hunpack : unpackBits s.input = some b := by rw [hinput, unpackBits_packBits]
  obtain ⟨t, hexec, hok, houtLen, houtput, -⟩ :=
    unpackDeliversTheBytes s .decode b data (.inr rfl) hunpack hdata hfits
  exact ⟨_, issueAll_command hexec, hok, houtLen, houtput⟩

/-- R104, R110: the inverse of the codes of an encode decodes its content. -/
theorem decodeBits_inverse_codesFor {data : List Byte} {b : Bits} (h : encodeBits data (codesFor data) = some b) :
    decodeBits b (inverse (codesFor data)) = (data, []) :=
  (codesFor_prefixCode data).decodeBits_of_encodeBits (codesFor_inverseTables data) h

/-- Settles O49: XFER carries the frame ENCODE wrote, and DECODE reads the reverse table ENCODE left. -/
theorem roundTrip : Obligations.RoundTrip := by
  unfold Obligations.RoundTrip
  refine ⟨fun s data hload hframe hxfer hdecode => ?_, fun data => ?_⟩
  · obtain ⟨loaded, hloaded, rfl, hkept⟩ := issueAll_load hload
    have hcaps : loaded.caps = s.caps := by rw [hkept]
    obtain ⟨b, encoded, hb, hencoded, hcaps', houtput, hrcode⟩ := issueAll_encode_of_fits (hcaps ▸ hframe)
    have houtLen : encoded.outLen = 2 + contentLength loaded.input / 8 := by
      rw [← State.output_length, houtput, packBits_length, encodeBits_codesFor_length hb]
    obtain ⟨moved, hmoved, hinput, hkept'⟩ := issueAll_xfer (s := encoded) (by rwa [houtLen, hcaps', hcaps])
      (by rwa [houtLen, hcaps', hcaps])
    have hcaps'' : moved.caps = encoded.caps := by rw [hkept']
    have hrcode' : moved.rcode = encoded.rcode := by rw [hkept']
    obtain ⟨decoded, hdecoded, hresult⟩ := issueAll_decode_of_fits (hinput.trans houtput)
      (data := loaded.input) (by rw [hrcode', hrcode, decodeBits_inverse_codesFor hb])
      (by rwa [hcaps'', hcaps', hcaps])
    refine ⟨decoded, ?_, hresult⟩
    rw [runScript_cons_of_next hloaded, runScript_cons_of_next hencoded, runScript_cons_of_next hmoved,
      runScript_cons_of_next hdecoded, runScript]
  · obtain ⟨b, hb⟩ := exists_encodeBits_codesFor data
    exact ⟨b, hb, unpackBits_packBits b, decodeBits_inverse_codesFor hb⟩

end Sys2Proof.Machine
end

section
/-! PROOFS. The outcomes of the commands and what an error leaves (R106, R120, R125, R126). -/

namespace Sys2Proof.Machine

/-! ### The outcomes -/

theorem State.ecode_of_eq_finish {s t : State} {e : Ending} (h : t = s.finish e) : t.ecode = e.outcome.code :=
  h ▸ State.finish_ecode e s

/-- R81, R82, R86: PACK ends well, or delivers nothing in one of its two errors. -/
theorem State.packPhase_cases (s : State) : s.packPhase.ecode = 0#4 ∨ s.packPhase = s.finish (.error .missingCode) ∨
    s.packPhase = s.finish (.error .outputOverflow) := by
  cases h : encodeBits s.input s.code with
  | none => exact .inr (.inl (State.packPhase_of_missing h))
  | some b =>
    rcases Nat.lt_or_ge s.caps.maxOut (2 + b.length / 8) with hover | hfits
    · exact .inr (.inr (State.packPhase_of_overflow h hover))
    · exact .inl (State.ecode_of_eq_finish (State.packPhase_of_fits h hfits))

/-- R92, R96, R98: UNPACK ends well, or delivers nothing in one of its two errors. -/
theorem State.unpackPhase_cases (s : State) : s.unpackPhase.ecode = 0#4 ∨
    s.unpackPhase = s.finish (.error .malformedStream) ∨ s.unpackPhase = s.finish (.error .outputOverflow) := by
  cases h : unpackBits s.input with
  | none => exact .inr (.inl (State.unpackPhase_of_malformed (.inl h)))
  | some b =>
    by_cases hleft : (decodeBits b s.rcode).2 = []
    · rcases Nat.lt_or_ge s.caps.maxOut (decodeBits b s.rcode).1.length with hover | hfits
      · exact .inr (.inr (State.unpackPhase_of_overflow h hleft hover))
      · exact .inl (State.ecode_of_eq_finish (State.unpackPhase_of_fits h hleft hfits))
    · exact .inr (.inl (State.unpackPhase_of_malformed (.inr ⟨b, h, hleft⟩)))

theorem State.packPhase_ecode_cases (s : State) :
    s.packPhase.ecode = 0#4 ∨ s.packPhase.ecode = 3#4 ∨ s.packPhase.ecode = 4#4 :=
  s.packPhase_cases.imp_right (Or.imp State.ecode_of_eq_finish State.ecode_of_eq_finish)

theorem State.unpackPhase_ecode_cases (s : State) :
    s.unpackPhase.ecode = 0#4 ∨ s.unpackPhase.ecode = 1#4 ∨ s.unpackPhase.ecode = 4#4 :=
  s.unpackPhase_cases.imp_right (Or.imp State.ecode_of_eq_finish State.ecode_of_eq_finish)

/-- Settles O51: ENCODE packs with the codes of its own input, so no code is missing (R107). -/
theorem outcomesOfEachCommand : Obligations.OutcomesOfEachCommand := by
  unfold Obligations.OutcomesOfEachCommand
  intro i s
  cases i with
  | clear => exact ⟨_, exec_clear s, State.setEcode_ecode .ok _⟩
  | count => exact ⟨_, exec_count s, State.setEcode_ecode .ok _⟩
  | build => exact ⟨_, exec_build s, State.setEcode_ecode .ok _⟩
  | assign => exact ⟨_, exec_assign s, State.setEcode_ecode .ok _⟩
  | pack => exact ⟨_, exec_pack s, s.packPhase_ecode_cases⟩
  | unpack => exact ⟨_, exec_unpack s, s.unpackPhase_ecode_cases⟩
  | decode => exact ⟨_, exec_decode s, s.unpackPhase_ecode_cases⟩
  | encode =>
    obtain ⟨e, hexec, hout⟩ := exec_encode_cases s
    have hecode := State.finish_ecode e s.tablePhases
    refine ⟨_, hexec, hout.imp (fun hok => ?_) fun hover => ?_⟩
    · rw [hecode, hok]; rfl
    · rw [hecode, hover]; rfl

/-! ### What an error leaves -/

theorem State.packPhase_of_error {s : State} (hne : s.packPhase.ecode ≠ 0#4) :
    ∃ e, s.packPhase = s.finish (.error e) :=
  (s.packPhase_cases.resolve_left hne).elim (fun h => ⟨_, h⟩) fun h => ⟨_, h⟩

theorem State.unpackPhase_of_error {s : State} (hne : s.unpackPhase.ecode ≠ 0#4) :
    ∃ e, s.unpackPhase = s.finish (.error e) :=
  (s.unpackPhase_cases.resolve_left hne).elim (fun h => ⟨_, h⟩) fun h => ⟨_, h⟩

/-- R126: a command that ends in an error has done nothing before it but ENCODE, which has made its tables. -/
theorem exec_error_cases {i : Instr} {s t : State} (h : exec i s = .next t) (hne : t.ecode ≠ 0#4) :
    ∃ e, (i ≠ .encode ∧ t = s.finish (.error e)) ∨ (i = .encode ∧ t = s.tablePhases.finish (.error e)) := by
  cases i <;> cases h
  case clear | count | build | assign => exact absurd (State.setEcode_ecode .ok _) hne
  case pack => exact (State.packPhase_of_error hne).imp fun _ he => .inl ⟨nofun, he⟩
  case unpack | decode => exact (State.unpackPhase_of_error hne).imp fun _ he => .inl ⟨nofun, he⟩
  case encode => exact (State.packPhase_of_error (s := s.tablePhases) hne).imp fun _ he => .inr ⟨rfl, he⟩

/-- R126: after an error no byte of OUTBUF is specified. -/
theorem State.byteOut_finish_error (e : Ecode) (s : State) (j : Nat) :
    (s.finish (.error e)).byteOut j = Config.freeOut (s.finish (.error e)).outDraw j :=
  State.byteOut_finish_of_ge (Nat.zero_le j)

/-- Settles O52. -/
theorem errorEntry : Obligations.ErrorEntry := by
  unfold Obligations.ErrorEntry
  intro i s t h hne
  have hresponse := commandWrite_of_decode (decode_eq_ok_iff_encode.2 rfl) h
  obtain ⟨e, ⟨hi, rfl⟩ | ⟨rfl, rfl⟩⟩ := exec_error_cases h hne
  · exact ⟨rfl, State.byteOut_finish_error e s, rfl, fun _ => rfl, fun _ => ⟨rfl, rfl, rfl, rfl, rfl⟩,
      fun hencode => absurd hencode hi, hresponse⟩
  · have hrcode : (s.tablePhases.finish (.error e)).rcode = inverse (s.tablePhases.finish (.error e)).code := by
      rw [State.finish_tablePhases_rcode, State.finish_tablePhases_code]
    obtain ⟨hfreq, hnode, hnnodes, hcode, -⟩ := s.finish_tablePhases_holdsTables (.error e)
    exact ⟨rfl, State.byteOut_finish_error e s.tablePhases, rfl, fun _ => rfl, fun hencode => absurd rfl hencode,
      fun _ => ⟨hfreq, hnode, hnnodes, hcode, hrcode⟩, hresponse⟩

end Sys2Proof.Machine
end

section
/-! PROOFS. The reset event and the first command after it (R140, R141), and that the counts alone decide the tables
(R60, R147). -/

namespace Sys2Proof.Machine

/-! ### The counts decide the tables -/

/-- R60: a count does not see the order of the bytes. -/
theorem freqOf_eq_of_perm {x y : List Byte} (h : x.Perm y) : freqOf x = freqOf y := by
  have hcount : (fun b => x.count b) = fun b => y.count b := funext h.count_eq
  rw [freqOf, freqOf, hcount]

/-- R105: the codes of an encode are a function of the counts. -/
theorem codesFor_congr {x y : List Byte} (h : freqOf x = freqOf y) : codesFor x = codesFor y := by
  rw [codesFor, codesFor, h]

/-- Settles O47: the tables are made of the counts of the input, and a permutation keeps these. -/
theorem sameCountsGiveTheSameTables : Obligations.SameCountsGiveTheSameTables := by
  unfold Obligations.SameCountsGiveTheSameTables
  intro s u hperm
  have hfreq := freqOf_eq_of_perm hperm
  have hnode := congrArg build hfreq
  have hcode := codesFor_congr hfreq
  refine ⟨_, _, exec_encode_eq_packPhase s, exec_encode_eq_packPhase u, hfreq, hnode,
    congrArg List.length hnode, ?_, ?_⟩
  · rw [State.packPhase_code, State.packPhase_code, State.tablePhases_code, State.tablePhases_code, hcode]
  · rw [State.packPhase_rcode, State.packPhase_rcode, State.tablePhases_rcode, State.tablePhases_rcode, hcode]

/-! ### The reset event -/

theorem takeEvent_reset (s : State) : takeEvent .reset s = .next s.afterReset := rfl

/-- Settles O4: taking the event gives `State.afterReset`, whose draw counters alone are not those of the reset
state. -/
theorem resetEventGivesTheResetState : Obligations.ResetEventGivesTheResetState := by
  unfold Obligations.ResetEventGivesTheResetState
  intro s rest hpending
  exact ⟨_, (step_of_pending_cons hpending).trans (takeEvent_reset _), rfl⟩

/-! ### The first command after reset -/

theorem build_zero : build FreqTable.zero = [] := build_eq_nil (presentCount_eq_zero_iff.2 countAt_zero)

/-- R73: a table without codes has no keys. -/
theorem rcodeAt_inverse_empty (p : Bits) : rcodeAt (inverse CodeTable.empty) p = none := by
  refine Option.eq_none_iff_forall_ne_some.2 fun b hkey => ?_
  have hcode := (empty_prefixCode.inverse_tables b p).1 hkey
  rw [codeAt_empty] at hcode
  exact nomatch hcode

/-- R83, R84: the frame of no content bits is a header of 8 and a byte of padding. -/
theorem packBits_nil : packBits [] = [0x08#8, 0x00#8] := packBits_zeros 0

/-- R81, R86: packing no input gives the frame 08 00, if it fits. -/
theorem State.packPhase_of_no_input {s : State} (h : s.input = []) :
    if s.caps.maxOut < 2 then s.packPhase.ecode = 4#4 ∧ s.packPhase.outLen = 0
    else s.packPhase.ecode = 0#4 ∧ s.packPhase.output = [0x08#8, 0x00#8] := by
  have hbits : encodeBits s.input s.code = some [] := by rw [h]; rfl
  split
  · rw [State.packPhase_of_overflow hbits ‹_›]
    exact ⟨State.finish_ecode _ s, rfl⟩
  · rw [State.packPhase_of_fits hbits (Nat.not_lt.1 ‹_›), State.finish_output]
    exact ⟨State.finish_ecode _ s, packBits_nil⟩

/-- R92: no input is no frame. -/
theorem State.unpackPhase_of_no_input {s : State} (h : s.input = []) :
    s.unpackPhase = s.finish (.error .malformedStream) :=
  State.unpackPhase_of_malformed (.inl (by rw [h, unpackBits_nil]))

/-- Settles O5: the reset state has no input, no counts and no nodes. -/
theorem firstCommandAfterReset : Obligations.FirstCommandAfterReset := by
  unfold Obligations.FirstCommandAfterReset
  intro c s
  have hinput : s.input = [] := rfl
  refine ⟨step_of_pending_nil rfl, ⟨_, exec_clear s, rfl⟩,
    ⟨_, exec_count s, State.setEcode_ecode .ok _, fun b => ?_⟩,
    ⟨_, exec_build s, State.setEcode_ecode .ok _, congrArg List.length build_zero⟩,
    ⟨_, exec_assign s, State.setEcode_ecode .ok _, codeAt_empty, rcodeAt_inverse_empty⟩,
    fun i hi => ?_, fun i hi => ?_⟩
  · rw [State.countPhase_freq, hinput, countAt_freqOf, List.count_nil]
  · rcases hi with rfl | rfl
    · exact ⟨_, exec_pack s, State.packPhase_of_no_input hinput⟩
    · exact ⟨_, exec_encode_eq_packPhase s, State.packPhase_of_no_input (s := s.tablePhases) hinput⟩
  · rw [exec_unpack_or_decode hi, State.unpackPhase_of_no_input hinput]
    exact ⟨_, rfl, State.finish_ecode _ s, rfl⟩

end Sys2Proof.Machine
end
